-- ==== Sys2Proof/Word.lean ====
section
/-! DEFINITION. The word types of the engine: bytes and the 32-bit words of `LEN_BITS` (00_scope.md rules R3, R4). -/

namespace Sys2Proof

/-- A byte is 8 bits (R4). -/
abbrev Byte := BitVec 8

/-- A register, length, position or cursor: `LEN_BITS = 32` bits, unsigned (R3, R10). -/
abbrev Word := BitVec 32

/-- The 32-bit word of a natural number (its low 32 bits). -/
abbrev w32 (n : Nat) : Word := BitVec.ofNat 32 n

end Sys2Proof
end

