-- ==== Sys2Proof/Config.lean ====
section
/-! DEFINITION. What is fixed for one engine: the parameters and constants of 00_scope.md rule R3, and the free
values, which the spec leaves open (93_implementation_defined.md: `any value`). -/

namespace Sys2Proof

/-- The parameter `CK32` of R3, a total function from byte sequences to words, as plain data: the default, or one of the
other functions that a deployment may put in its place (R160; assumption log 3). -/
inductive Checksum where
  /-- XXH32 with seed 0 (R160) -/
  | xxh32
  /-- another checksum: the uninterpreted function `Config.otherChecksum k` -/
  | other (k : Nat)
deriving DecidableEq, Repr

/-- The parameters of rule R3 that a model takes as arguments, each with the spec's default. -/
structure Params where
  /-- `HASH_LOG`: log2 of the number of hash-table entries, 1..32 -/
  hashLog : Nat := 12
  /-- `HASH_MULT`: the multiplier of the hash function -/
  hashMult : Word := 2654435761#32
  /-- `MFLIMIT`: no match is looked for at `p` unless `p + MFLIMIT <= block_end`; at least 9 -/
  mfLimit : Nat := 12
  /-- `BACKWARD_EXTEND`: whether the encoder extends a match backward -/
  backwardExtend : Bool := false
  /-- `STORED_OVERHEAD`: a block is stored when `clen + STORED_OVERHEAD >= raw size` -/
  storedOverhead : Nat := 0
  /-- `BLOCK_MAX_CODE`: the block maximum-size code the writer uses, 4..7 -/
  blockMaxCode : Nat := 4
  /-- `CK32`: the checksum of frames -/
  checksum : Checksum := .xxh32
deriving DecidableEq, Repr

/-- The legal ranges of the parameters (R3). -/
def Params.wf (p : Params) : Bool :=
  decide (1 ≤ p.hashLog) && decide (p.hashLog ≤ 32) && decide (9 ≤ p.mfLimit)
    && decide (4 ≤ p.blockMaxCode) && decide (p.blockMaxCode ≤ 7)

namespace Config

/-- `MIN_MATCH`, the shortest encodable match (R3). -/
def minMatch : Nat := 4
/-- `LAST_LITERALS`, the bytes at the end of a block that no match may cover (R3). -/
def lastLiterals : Nat := 5
/-- `RUN_MASK`, the 4-bit length code that announces extension bytes (R3). -/
def runMask : Nat := 15
/-- `MAX_DISTANCE`, the largest back-reference offset (R3; 90_conflicts.md C4). -/
def maxDistance : Nat := 65535
/-- `MAGIC`, the frame magic number (R3, R74). -/
def magicNumber : Word := 0x184D2204#32

/-- FREE VALUE (assumption log 1): what byte `i` of `IN` reads as while it has no specified content, in the given
epoch (a reset makes all of `IN` unspecified: R25; 93 U6). -/
opaque freeInByte : Nat → Nat → Byte
/-- FREE VALUE (assumption log 1): what byte `i` of `OUT` reads as while it has no specified content, after it has lost
its content the given number of times (R25, R29, R190; 93 U1, U5, U6). -/
opaque freeOutByte : Nat → Nat → Byte
/-- FREE VALUE (assumption log 5): the `k`-th open value of register `r` that a host read meets while Busy
(R15; 93 U3). -/
opaque freeBusyRead : Nat → Nat → Word
/-- FREE VALUE (assumption log 4): what internal register number `r` holds outside a command, after the `k`-th
command ended (R17; 93 U2). -/
opaque freeReg : Nat → Nat → Word
/-- The parameter `CK32`, where it is not the default: any function at all (R3, R160; 93 U14; assumption log 3). -/
opaque otherChecksum : Nat → List Byte → Word
/-- FREE VALUE (assumption log 4): what the accumulator `cc` holds outside a frame command (R17, R22; 93 U2). -/
opaque freeBytes : Nat → List Byte

end Config

end Sys2Proof
end

