-- ==== Sys2Proof/Syntax.lean ====
section
/-! DEFINITION. The instructions: one constructor for each row of spec/opcode_table.json.  The engine has three
encodings (30_encoding.md): the host commands (R60), the token stream of a block (R63) and the elements of a frame
(R73). -/

namespace Sys2Proof

/-- One row of the opcode table each. -/
inductive Instr where
  /-- `0x01`, the size bound (R120) -/
  | cbound
  /-- `0x02`, encode one block (R121) -/
  | cblock
  /-- `0x03`, decode one block (R140) -/
  | dblock
  /-- `0x04`, write a frame (R179) -/
  | cframe
  /-- `0x05`, read a frame (R162) -/
  | dframe
  /-- `0x10`, clear the hash table (R102) -/
  | mfclr
  /-- `0x11`, look up and insert a position (R106) -/
  | mffind
  /-- `0x12`, insert a position (R105) -/
  | mfins
  /-- `0x1F`, abandon the session (R190) -/
  | abort
  /-- an encoded sequence: literals, offset, match length (R64 to R69) -/
  | seq (lit : List Byte) (off : BitVec 16) (mlen : Nat)
  /-- the terminal, literals-only sequence, with the ignored match code of its token byte (R70) -/
  | last (lit : List Byte) (mc : BitVec 4)
  /-- the magic number (R74) -/
  | magic
  /-- the FLG byte with version 01: `B_INDEP`, `B_CKSUM`, `C_SIZE`, `C_CKSUM`, the reserved bit 1, `DICT_ID` (R75) -/
  | flg (indep bck csz cck rsv did : Bool)
  /-- the BD byte with its reserved bits 0: the block maximum code (R76) -/
  | bd (code : BitVec 3)
  /-- the content size field (R77) -/
  | csize (v : BitVec 64)
  /-- the dictionary ID field (R78) -/
  | dictid (v : Word)
  /-- the header checksum byte (R79) -/
  | hc (h : Byte)
  /-- a block size word that is not the EndMark: stored bit and payload size (R80) -/
  | bsize (stored : Bool) (size : BitVec 31)
  /-- a block checksum (R81) -/
  | bck (k : Word)
  /-- the EndMark (R82) -/
  | endmark
  /-- the content checksum (R83) -/
  | cck (k : Word)
deriving DecidableEq, Repr

end Sys2Proof
end

