-- ==== Sys2Proof/WellFormed.lean ====
section
/-! DEFINITION. Which terms of `Instr` are legal instructions: the encoding holds them and no rule calls the encoding
illegal (30_encoding.md rules R66, R68, R69, R72, R75, R76, R80, R84). -/

namespace Sys2Proof

/-- An instruction is well formed when it has an encoding and the spec does not call that encoding illegal. -/
def Instr.wf : Instr → Bool
  -- a literal length fits 32 bits (R72)
  | .last lit _ => decide (lit.length < 2 ^ 32)
  -- the same; the offset is not 0 (R68, R72); the match is at least 4 long (R69) and fits 32 bits (R72)
  | .seq lit off mlen =>
    decide (lit.length < 2 ^ 32) && decide (off ≠ 0) && decide (4 ≤ mlen) && decide (mlen < 2 ^ 32)
  -- FLG bit 1 must be 0 (R75, R84)
  | .flg _ _ _ _ rsv _ => !rsv
  -- codes 0 to 3 are illegal (R76, R84)
  | .bd code => decide (4 ≤ code.toNat)
  -- the all-zero word is the EndMark (R80)
  | .bsize stored size => stored || decide (size ≠ 0)
  | .cbound | .cblock | .dblock | .cframe | .dframe | .mfclr | .mffind | .mfins | .abort => true
  | .magic | .csize _ | .dictid _ | .hc _ | .bck _ | .endmark | .cck _ => true

end Sys2Proof
end

