-- ==== Sys2Proof/Decode.lean ====
section
/-! DEFINITION. The byte order of the formats, the length codes, the decoder (total on any bytes, rejecting by name)
and the encoder (30_encoding.md rules R60 to R87). -/

namespace Sys2Proof

/-! ### Little-endian fields (R4, R44) -/

/-- The value of a little-endian byte sequence (R4, R44). -/
def leNat : List Byte → Nat
  | [] => 0
  | b :: bs => b.toNat + 256 * leNat bs

/-- The `k` low bytes of a number, least significant first: `le16`, `le32`, `le64` (R4, R44). -/
def leBytes : Nat → Nat → List Byte
  | 0, _ => []
  | k + 1, n => BitVec.ofNat 8 n :: leBytes k (n / 256)

/-- `u32le` (R4). -/
def u32le (bs : List Byte) : Word := w32 (leNat bs)

/-! ### Length codes (R66) -/

/-- The 4-bit code of a value (R66). -/
def lenCode (v : Nat) : Nat := min v Config.runMask

/-- The extension bytes of a value, `enc_len` (R66, R87). -/
def encLen (v : Nat) : List Byte :=
  if v < Config.runMask then []
  else List.replicate ((v - Config.runMask) / 255) 255#8 ++ [BitVec.ofNat 8 ((v - Config.runMask) % 255)]

/-- `e(V)`: how many extension bytes a value has (R71). -/
def extLen (v : Nat) : Nat :=
  if v < Config.runMask then 0 else (v - Config.runMask) / 255 + 1

/-- What reading a length gives: the value, how many extension bytes it took and the bytes after it; or, after so many
extension bytes read, the input's end or a sum that leaves its range (R66, R145, R148). -/
inductive LenScan where
  | done (v used : Nat) (rest : List Byte)
  | short (used : Nat)
  | over (used : Nat)
deriving DecidableEq, Repr

/-- The extension loop of R143 steps 2 and 6: `maxV` bounds the sum. -/
def scanExt (maxV : Nat) : Nat → Nat → List Byte → LenScan
  | _, used, [] => .short used
  | acc, used, b :: bs =>
    if acc + b.toNat > maxV then .over (used + 1)
    else if b = 255#8 then scanExt maxV (acc + b.toNat) (used + 1) bs
    else .done (acc + b.toNat) (used + 1) bs

/-- A 4-bit code and its extension bytes (R66). -/
def scanLen (maxV code : Nat) (bs : List Byte) : LenScan :=
  if code = Config.runMask then scanExt maxV code 0 bs else .done code 0 bs

/-- The largest literal length sum (R143 step 2). -/
def maxLit : Nat := 2 ^ 32 - 1
/-- The largest sum of a match length code and its extension, before the bias 4 is added (R143 step 6). -/
def maxMatchCode : Nat := 2 ^ 32 - 1 - 4

/-! ### The decoder -/

/-- Where in its work the engine reads an instruction: the three encodings do not tell themselves apart by their bytes
(30_encoding.md; R71: "Nothing in a token byte says whether it begins a SEQ or a LAST"). -/
inductive Site where
  /-- the low byte of a write to `CMD` (R60) -/
  | cmd
  /-- the rest of a token stream, up to its end (R63) -/
  | token
  | magic | flg | bd | hc | csize | dictid
  /-- a block size word or the EndMark (R80, R82) -/
  | block
  | bck | cck
deriving DecidableEq, Repr

/-- Why bytes are no instruction.  The rejections of a token stream carry what stands before the fault, since R143
has acted on that part by then. -/
inductive Reject where
  /-- an opcode that R60 does not define (R62) -/
  | reservedOpcode (b : Byte)
  /-- fewer bytes than the element has (R84) -/
  | short
  /-- the first four bytes are not the magic number (R84) -/
  | badMagic
  /-- an FLG byte whose version is not 01 (R84) -/
  | badFlg (b : Byte)
  /-- a BD byte with bit 7 or bits 3:0 set (R84) -/
  | badBd (b : Byte)
  /-- no token byte (R143 step 1) -/
  | noToken
  /-- token byte `t`, then the input ends after `used` literal extension bytes (step 2) -/
  | litExtShort (t : Byte) (used : Nat)
  /-- the literal length leaves 32 bits at the `used`-th extension byte (step 2) -/
  | litExtOver (t : Byte) (used : Nat)
  /-- fewer bytes than the literal length `len` says (step 3) -/
  | litShort (t : Byte) (len : Nat)
  /-- literals, then one byte where an offset needs two (step 5) -/
  | offShort (t : Byte) (lit : List Byte)
  /-- an offset of 0 (step 5) -/
  | offZero (t : Byte) (lit : List Byte)
  /-- the input ends after `used` match extension bytes (step 6) -/
  | matchExtShort (t : Byte) (lit : List Byte) (off : BitVec 16) (used : Nat)
  /-- the match length leaves 32 bits at the `used`-th extension byte (step 6) -/
  | matchExtOver (t : Byte) (lit : List Byte) (off : BitVec 16) (used : Nat)
deriving DecidableEq, Repr

/-- The opcode map (R60). -/
def decodeOpcode (b : Byte) : Except Reject Instr :=
  if b = 0x01#8 then .ok .cbound
  else if b = 0x02#8 then .ok .cblock
  else if b = 0x03#8 then .ok .dblock
  else if b = 0x04#8 then .ok .cframe
  else if b = 0x05#8 then .ok .dframe
  else if b = 0x10#8 then .ok .mfclr
  else if b = 0x11#8 then .ok .mffind
  else if b = 0x12#8 then .ok .mfins
  else if b = 0x1F#8 then .ok .abort
  else .error (.reservedOpcode b)

/-- What follows the literals: nothing (LAST, R70, R71) or an offset and a match length (SEQ, R64). -/
def decodeAfterLits (t : Byte) (lit : List Byte) : List Byte → Except Reject Instr
  | [] => .ok (.last lit (BitVec.ofNat 4 t.toNat))
  | [_] => .error (.offShort t lit)
  | b0 :: b1 :: bs =>
    let off := BitVec.ofNat 16 (leNat [b0, b1])
    if off = 0 then .error (.offZero t lit)
    else
      match scanLen maxMatchCode (t.toNat % 16) bs with
      | .short used => .error (.matchExtShort t lit off used)
      | .over used => .error (.matchExtOver t lit off used)
      | .done v _ _ => .ok (.seq lit off (v + Config.minMatch))

/-- One encoded sequence, from the bytes of the stream up to its end (R64 to R72, R143). -/
def decodeToken : List Byte → Except Reject Instr
  | [] => .error .noToken
  | t :: bs =>
    match scanLen maxLit (t.toNat / 16) bs with
    | .short used => .error (.litExtShort t used)
    | .over used => .error (.litExtOver t used)
    | .done len _ rest =>
      if rest.length < len then .error (.litShort t len)
      else decodeAfterLits t (rest.take len) (rest.drop len)

/-- The four bytes of the magic number (R74). -/
def magicBytes : List Byte := [0x04#8, 0x22#8, 0x4D#8, 0x18#8]

/-- The FLG byte (R75). -/
def decodeFlg (b : Byte) : Except Reject Instr :=
  if b.toNat / 64 = 1 then
    .ok (.flg (b.getLsbD 5) (b.getLsbD 4) (b.getLsbD 3) (b.getLsbD 2) (b.getLsbD 1) (b.getLsbD 0))
  else .error (.badFlg b)

/-- The BD byte (R76). -/
def decodeBd (b : Byte) : Except Reject Instr :=
  if b.getLsbD 7 = false ∧ b.toNat % 16 = 0 then .ok (.bd (BitVec.ofNat 3 (b.toNat / 16)))
  else .error (.badBd b)

/-- The block size word (R80) or the EndMark (R82). -/
def decodeBlockWord (w : Nat) : Instr :=
  if w = 0 then .endmark else .bsize (decide (2 ^ 31 ≤ w)) (BitVec.ofNat 31 w)

/-- The first `k` bytes as one little-endian number (R44). -/
def takeLe (k : Nat) (bs : List Byte) : Except Reject Nat :=
  if bs.length < k then .error .short else .ok (leNat (bs.take k))

/-- The decoder: the instruction that bytes read at a site are, or why they are none. -/
def decode : Site → List Byte → Except Reject Instr
  | .cmd, b :: _ => decodeOpcode b
  | .cmd, [] => .error .short
  | .token, bs => decodeToken bs
  | .magic, bs =>
    if bs.length < 4 then .error .short
    else if bs.take 4 = magicBytes then .ok .magic else .error .badMagic
  | .flg, b :: _ => decodeFlg b
  | .flg, [] => .error .short
  | .bd, b :: _ => decodeBd b
  | .bd, [] => .error .short
  | .hc, b :: _ => .ok (.hc b)
  | .hc, [] => .error .short
  | .csize, bs => (takeLe 8 bs).map fun n => .csize (BitVec.ofNat 64 n)
  | .dictid, bs => (takeLe 4 bs).map fun n => .dictid (w32 n)
  | .block, bs => (takeLe 4 bs).map decodeBlockWord
  | .bck, bs => (takeLe 4 bs).map fun n => .bck (w32 n)
  | .cck, bs => (takeLe 4 bs).map fun n => .cck (w32 n)

/-! ### The encoder -/

/-- The token byte of a literal length and a match length code value (R65). -/
def tokenByte (litLen matchV : Nat) : Byte := BitVec.ofNat 8 (16 * lenCode litLen + lenCode matchV)

/-- The FLG byte of its fields (R75). -/
def flgByte (indep bck csz cck rsv did : Bool) : Byte :=
  BitVec.ofNat 8 (64 + 32 * indep.toNat + 16 * bck.toNat + 8 * csz.toNat + 4 * cck.toNat + 2 * rsv.toNat + did.toNat)

/-- The BD byte of its code (R76). -/
def bdByte (code : BitVec 3) : Byte := BitVec.ofNat 8 (16 * code.toNat)

/-- `EncodeSEQ` (R87). -/
def encodeSeq (lit : List Byte) (off : BitVec 16) (mlen : Nat) : List Byte :=
  tokenByte lit.length (mlen - Config.minMatch) :: encLen lit.length ++ lit ++ leBytes 2 off.toNat
    ++ encLen (mlen - Config.minMatch)

/-- A terminal sequence with match code `mc` in its token byte; `EncodeLAST` is this with `mc = 0` (R70, R87). -/
def encodeLast (lit : List Byte) (mc : BitVec 4) : List Byte :=
  BitVec.ofNat 8 (16 * lenCode lit.length + mc.toNat) :: encLen lit.length ++ lit

/-- The value of a block size word (R80). -/
def blockWord (stored : Bool) (size : Nat) : Nat := size + 2 ^ 31 * stored.toNat

/-- The encoder: the bytes of an instruction (R60, R74 to R83, R87). -/
def encode : Instr → List Byte
  | .cbound => [0x01#8]
  | .cblock => [0x02#8]
  | .dblock => [0x03#8]
  | .cframe => [0x04#8]
  | .dframe => [0x05#8]
  | .mfclr => [0x10#8]
  | .mffind => [0x11#8]
  | .mfins => [0x12#8]
  | .abort => [0x1F#8]
  | .seq lit off mlen => encodeSeq lit off mlen
  | .last lit mc => encodeLast lit mc
  | .magic => magicBytes
  | .flg i b s c r d => [flgByte i b s c r d]
  | .bd code => [bdByte code]
  | .csize v => leBytes 8 v.toNat
  | .dictid v => leBytes 4 v.toNat
  | .hc h => [h]
  | .bsize stored size => leBytes 4 (blockWord stored size.toNat)
  | .bck k => leBytes 4 k.toNat
  | .endmark => leBytes 4 0
  | .cck k => leBytes 4 k.toNat

/-- Where an instruction is read. -/
def Instr.site : Instr → Site
  | .cbound | .cblock | .dblock | .cframe | .dframe | .mfclr | .mffind | .mfins | .abort => .cmd
  | .seq _ _ _ | .last _ _ => .token
  | .magic => .magic
  | .flg _ _ _ _ _ _ => .flg
  | .bd _ => .bd
  | .csize _ => .csize
  | .dictid _ => .dictid
  | .hc _ => .hc
  | .bsize _ _ | .endmark => .block
  | .bck _ => .bck
  | .cck _ => .cck

/-- How many bytes an instruction takes (R71, R73). -/
def Instr.size : Instr → Nat
  | .seq lit _ mlen => 1 + extLen lit.length + lit.length + 2 + extLen (mlen - Config.minMatch)
  | .last lit _ => 1 + extLen lit.length + lit.length
  | .cbound | .cblock | .dblock | .cframe | .dframe | .mfclr | .mffind | .mfins | .abort => 1
  | .flg _ _ _ _ _ _ | .bd _ | .hc _ => 1
  | .csize _ => 8
  | .magic | .dictid _ | .bsize _ _ | .bck _ | .endmark | .cck _ => 4

/-! ### The words of the opcode table -/

/-- `some` of what a site reads, if it reads an instruction. -/
def decode? (site : Site) (bs : List Byte) : Option Instr := (decode site bs).toOption

/-- The instruction that a word of the opcode table is read as (assumption log 10).  A byte stands for a command
before it stands for FLG, for FLG before BD, and for BD before the token byte of a LAST whose extension and literal
bytes are zeros.  A 32-bit word is the magic number, in the table's wire-order number or as its little-endian value,
or else a block size word or EndMark; a 64-bit word is a content size. -/
def decodeTableWord (nbits w : Nat) : Option Instr :=
  if 2 ^ nbits ≤ w then none
  else if nbits = 8 then
    let b : Byte := BitVec.ofNat 8 w
    (decode? .cmd [b]).or <| (decode? .flg [b]).or <| (decode? .bd [b]).or <|
      decode? .token (b :: List.replicate (if w / 16 = 15 then 16 else w / 16) 0#8)
  else if nbits = 32 then
    if w = 0x04224D18 then decode? .magic (leBytes 4 w).reverse
    else (decode? .magic (leBytes 4 w)).or (decode? .block (leBytes 4 w))
  else if nbits = 64 then decode? .csize (leBytes 8 w)
  else none

end Sys2Proof
end

