-- ==== Sys2Proof/Machine/Checksum.lean ====
section
/-! DEFINITION. XXH32 with seed 0 (43_frame.md rule R160), the parameter `CK32` (00_scope.md rule R3), and the header
checksum byte (30_encoding.md rule R79). -/

namespace Sys2Proof.Machine

/-- The five constants of R160. -/
def ckP1 : Word := 2654435761#32
def ckP2 : Word := 2246822519#32
def ckP3 : Word := 3266489917#32
def ckP4 : Word := 668265263#32
def ckP5 : Word := 374761393#32

/-- `rotl32` (R4). -/
def rotl (x : Word) (r : Nat) : Word := (x <<< r) ||| (x >>> (32 - r))

/-- `round` (R160). -/
def ckRound (acc x : Word) : Word := rotl (acc + x * ckP2) 13 * ckP1

/-- `lane`: the next four bytes as one word (R160). -/
def ckLane (bs : List Byte) : Word := u32le (bs.take 4)

/-- The stripe loop over whole groups of 16 bytes: the merged accumulators and the bytes left (R160). -/
def ckStripes : Nat → Word → Word → Word → Word → List Byte → Word × List Byte
  | 0, v1, v2, v3, v4, bs => (rotl v1 1 + rotl v2 7 + rotl v3 12 + rotl v4 18, bs)
  | k + 1, v1, v2, v3, v4, bs =>
    ckStripes k (ckRound v1 (ckLane bs)) (ckRound v2 (ckLane (bs.drop 4))) (ckRound v3 (ckLane (bs.drop 8)))
      (ckRound v4 (ckLane (bs.drop 12))) (bs.drop 16)

/-- The tail: whole words, then single bytes (R160). -/
def ckTail : Word → List Byte → Word
  | h, b0 :: b1 :: b2 :: b3 :: bs => ckTail (rotl (h + u32le [b0, b1, b2, b3] * ckP3) 17 * ckP4) bs
  | h, b :: bs => ckTail (rotl (h + b.setWidth 32 * ckP5) 11 * ckP1) bs
  | h, [] => h

/-- The final mixing (R160). -/
def ckFinish (h : Word) : Word :=
  let h1 := (h ^^^ (h >>> 15)) * ckP2
  let h2 := (h1 ^^^ (h1 >>> 13)) * ckP3
  h2 ^^^ (h2 >>> 16)

/-- XXH32 with seed 0, the default of `CK32` (R160). -/
def xxh32 (bs : List Byte) : Word :=
  let n := bs.length
  let (h, rest) := if 16 ≤ n then ckStripes (n / 16) (ckP1 + ckP2) ckP2 0#32 (0#32 - ckP1) bs else (ckP5, bs)
  ckFinish (ckTail (h + w32 n) rest)

/-- `CK32`, the engine's checksum: the parameter (R3, R160; assumption log 3). -/
def ck32 (cfg : Params) (bs : List Byte) : Word :=
  match cfg.checksum with
  | .xxh32 => xxh32 bs
  | .other k => Config.otherChecksum k bs

/-- `HC` of the descriptor bytes: bits 15:8 of their checksum (R79). -/
def headerByte (cfg : Params) (descriptor : List Byte) : Byte := (ck32 cfg descriptor).extractLsb' 8 8

end Sys2Proof.Machine
end

