-- ==== Sys2Proof/Machine/Memory.lean ====
section
/-! DEFINITION. Sparse data by index in one canonical form (indices strictly rising), and over it the byte buffers
(20_memory.md) and the hash table (10_state.md rule R20).  An unlisted index has no specified content. -/

namespace Sys2Proof.Machine

/-- Sparse data: index and value pairs, indices strictly rising. -/
abbrev Table (α : Type) := List (Nat × α)

/-- The entry at an index, if one is listed. -/
def Table.get {α : Type} : Table α → Nat → Option α
  | [], _ => none
  | (j, v) :: t, i => if i = j then some v else Table.get t i

/-- The table with the entry at an index set. -/
def Table.put {α : Type} : Table α → Nat → α → Table α
  | [], i, v => [(i, v)]
  | (j, w) :: t, i, v =>
    if i < j then (i, v) :: (j, w) :: t
    else if i = j then (i, v) :: t
    else (j, w) :: Table.put t i v

/-- The canonical form: indices strictly rising. -/
def Table.wf {α : Type} : Table α → Bool
  | [] => true
  | [_] => true
  | (i, _) :: (j, v) :: t => decide (i < j) && Table.wf ((j, v) :: t)

/-- A byte buffer, `IN` or `OUT`: its bytes with a specified content (R40).  An unlisted byte reads as no value here;
the engine's and the host's reads make a free value of it (`State.inByte`, `State.outByte`; assumption log 1). -/
abbrev Memory := Table Byte

/-- A buffer is a list of the host's cells. -/
theorem Memory.is_list_of_cells : Memory = List Host.Cell := rfl

/-- Read one byte (R41). -/
abbrev Memory.read (m : Memory) (a : Nat) : Option Byte := Table.get m a

/-- Write one byte (R41). -/
abbrev Memory.write (m : Memory) (a : Nat) (b : Byte) : Memory := Table.put m a b

/-- The canonical form of a buffer: indices strictly rising.  An unlisted index reads as no value, which no entry
is. -/
abbrev Memory.wf (m : Memory) : Bool := Table.wf m

/-- `MemWrite`: byte by byte in ascending order (R41). -/
def Memory.writeBytes : Memory → Nat → List Byte → Memory
  | m, _, [] => m
  | m, a, b :: bs => Memory.writeBytes (m.write a b) (a + 1) bs

/-- The buffer with the bytes from `lo` up to `hi`, excluded, left unspecified. -/
def Memory.forget (m : Memory) (lo hi : Nat) : Memory := m.filter fun c => decide (c.1 < lo) || decide (hi ≤ c.1)

/-- The hash table: the entries whose `valid` bit is 1, each with its position (R20).  An unlisted index has
`valid = 0`; its `pos` field is unspecified and no rule reads it (93 U2; assumption log 6). -/
abbrev HashTable := Table Word

end Sys2Proof.Machine
end

