-- ==== Sys2Proof/Machine/State.lean ====
section
/-! DEFINITION. The state of the engine, as plain data (10_state.md), with the host's pending actions; the faults and
refusals; the state after reset (R25). -/

namespace Sys2Proof.Machine

/-- `STATUS.STATE` (R12). -/
inductive RunState where
  /-- 0: no command since reset or ABORT -/
  | idle
  /-- 1: a command runs -/
  | busy
  /-- 2: the last command ended without error -/
  | done
  /-- 3: the last command ended with an error -/
  | error
deriving DecidableEq, Repr

/-- `STATUS.FSM`, the frame state machine (R12, R163, R180). -/
inductive Fsm where
  | none
  /-- reader `AwaitingHeader`, writer `WritingHeader` -/
  | header
  /-- `ReadingBlocks`, `WritingBlocks` -/
  | blocks
  /-- `AwaitingEndMark`, `WritingEndMark` -/
  | endMark
  /-- `Done`, `Finalized` -/
  | finished
  /-- the terminal error state -/
  | failed
deriving DecidableEq, Repr

/-- The fields of `STATUS` (R12).  The host's view of them as one word is `Status.toWord`. -/
structure Status where
  state : RunState := .idle
  stored : Bool := false
  found : Bool := false
  fsm : Fsm := .none
  fsmAt : Fsm := .none
  lastCmd : Byte := 0#8
deriving DecidableEq, Repr

/-- The error codes of `ERR` (R200). -/
inductive ErrCode where
  | none
  | insufficientOutputSpace
  | malformedSequence
  | unexpectedEndOfInput
  | outputSizeMismatch
  | invalidMagicNumber
  | headerChecksumMismatch
  | blockChecksumMismatch
  | contentChecksumMismatch
  | formatViolation
  | illegalCommand
deriving DecidableEq, Repr

/-- The operand registers, `RW` (R10, R14). -/
structure Operands where
  options : Word := 0#32
  inLen : Word := 0#32
  outCap : Word := 0#32
  expLen : Word := 0#32
  pos : Word := 0#32
  winLo : Word := 0#32
  limit : Word := 0#32
deriving DecidableEq, Repr

/-- The result registers, `R`, other than `STATUS` and `ERR` (R10, R15). -/
structure Results where
  outLen : Word := 0#32
  inPos : Word := 0#32
  boundLo : Word := 0#32
  boundHi : Word := 0#32
  matchOff : Word := 0#32
  matchLen : Word := 0#32
  desc : Word := 0#32
  csizeLo : Word := 0#32
  csizeHi : Word := 0#32
  dictId : Word := 0#32
  blockIdx : Word := 0#32
  cksum : Word := 0#32
deriving DecidableEq, Repr

/-- The commands that run (R60); ABORT only stops one (R190). -/
inductive Cmd where
  | cbound | cblock | dblock | cframe | dframe | mfclr | mffind | mfins
deriving DecidableEq, Repr

/-- The place in the running command's pseudocode that the engine has reached, between two of its whole steps (R16,
R26, R190). -/
inductive Point where
  /-- no command runs -/
  | idle
  /-- the first line of a command's pseudocode (R26) -/
  | entry (c : Cmd)
  /-- the head of the loop of `EncodeRegion` (R123) -/
  | scan
  /-- the head of the loop of `DecodeTokens` (R143) -/
  | tokens
  /-- DFRAME step H1 (R162) -/
  | magic
  /-- step H2: FLG, then BD, then HC -/
  | flg | bd | hc
  /-- step H4: the content size, then the dictionary ID -/
  | csize | dictid
  /-- step B1 -/
  | block
  /-- step B3 -/
  | bck
  /-- step E2 -/
  | cck
  /-- the head of CFRAME's loop W2 (R179) -/
  | nextBlock
  /-- CFRAME step W3 -/
  | trailer
deriving DecidableEq, Repr

/-- The internal registers (R17), the accumulator `cc` (R22), and the locals of the pseudocode that live from one of
its steps to a later one.  Reset values are the model's (assumption log 4). -/
structure Internal where
  point : Point := .idle
  ip : Word := 0#32
  inEnd : Word := 0#32
  op : Word := 0#32
  histLo : Word := 0#32
  limBlk : BitVec 33 := 0#33
  /-- `none` in exact mode (R140, R142) -/
  limBuf : Option Word := none
  /-- exact or bounded mode (R141) -/
  exactMode : Bool := false
  t : Byte := 0#8
  litLen : Word := 0#32
  matchLen : Word := 0#32
  off : BitVec 16 := 0#16
  pos : Word := 0#32
  anchor : Word := 0#32
  blkLo : Word := 0#32
  blkHi : Word := 0#32
  winLo : Word := 0#32
  mlimit : Word := 0#32
  cand : Word := 0#32
  /-- `HASH_LOG` bits, zero-extended -/
  h : Word := 0#32
  mlen : Word := 0#32
  flg : Byte := 0#8
  bd : Byte := 0#8
  indep : Bool := false
  bck : Bool := false
  csz : Bool := false
  cck : Bool := false
  did : Bool := false
  bmax : Word := 0#32
  /-- all raw bytes fed to the content checksum (R22) -/
  cc : List Byte := []
  /-- `stored` and `sz` of the current data block (R162 step B2) -/
  blkStored : Bool := false
  blkSize : BitVec 31 := 0#31
  /-- `bstart` (R162 step B4) -/
  bstart : Word := 0#32
  /-- `ob` of `EncodeRegion`, the index in `OUT` of the token stream being written (R123) -/
  ob : Word := 0#32
deriving DecidableEq, Repr

/-- What the host does next: the actions of the written notation (R86), the reset event (R230), and how far the
engine gets between two actions (R190, R245; assumption log 7). -/
inductive HostAct where
  /-- a write to a register by number; a write to `CMD` runs the command it starts to its end -/
  | wr (reg : Nat) (v : Word)
  /-- a write to `CMD` after which the host does not wait: its next actions may find the engine Busy -/
  | start (v : Word)
  /-- the engine takes one of its whole steps -/
  | tick
  /-- poll `STATUS` until the engine is not Busy -/
  | wait
  /-- a read of a register by number; the value lands in `State.rdData` -/
  | rd (reg : Nat)
  | wrIn (i : Nat) (bs : List Byte)
  | wrOut (i : Nat) (bs : List Byte)
  /-- a read of `n` bytes; they land in `State.rdBytes` -/
  | rdIn (i n : Nat)
  | rdOut (i n : Nat)
  /-- the hardware reset event -/
  | reset
deriving DecidableEq, Repr

/-- The byte buffers. -/
inductive Space where
  | inBuf | outBuf
deriving DecidableEq, Repr

/-- The machine stops with a fault.  No command raises one: the engine's own errors are states (R205, R210). -/
inductive Fault where
  /-- Raised by a host access to a buffer index of `2^32` or above, which does not exist (R40: indices are 32-bit).
  Safe: the model stops. -/
  | noSuchIndex (sp : Space) (i : Nat)
deriving DecidableEq, Repr

/-- The model has no meaning for what is asked. -/
inductive Refusal where
  /-- Raised by an arm of `exec` for an instruction that has no meaning yet.  Safe: the model stops. -/
  | notModelled (mnemonic : String)
  /-- Raised by a host access to a buffer while the engine is Busy, which is outside the spec's model (R27; 93 U4:
  `refuse`).  Safe: the model stops. -/
  | busyBufferAccess (sp : Space)
deriving DecidableEq, Repr

/-- The engine's own state (10_state.md).  What R24 calls a parameter of a run is no part of it and is passed to its step
function, `engineWith`. -/
structure EngineState where
  status : Status := {}
  err : ErrCode := .none
  opr : Operands := {}
  res : Results := {}
  int : Internal := {}
  ht : HashTable := []
  outb : Memory := []
  /-- the model's counters that index the free values of `OUT` and of registers (assumption log 1, 4, 5) -/
  outEpoch : Nat := 0
  /-- the ranges of `OUT` that have lost their specified content since reset, newest first (assumption log 1) -/
  outFreed : List (Nat × Nat) := []
  fresh : Nat := 0
deriving DecidableEq, Repr

/-- What the engine is given and never changes: the parameters of a run that R24 names, the constants of R3 and the
contents of `IN`, and the host that writes the opcodes. -/
structure Given where
  /-- the parameters of this engine (R3) -/
  cfg : Params := {}
  inb : Memory := []
  /-- the model's counter that indexes the free values of `IN` (assumption log 1) -/
  inEpoch : Nat := 0
  /-- the host's pending actions, next first -/
  host : List HostAct := []
  /-- the host's last register read -/
  rdData : Word := 0#32
  /-- the host's last buffer read -/
  rdBytes : List Byte := []
deriving DecidableEq, Repr

/-- The engine and what it is given, side by side: what the fixed signatures of `step` and `exec`, which have one argument
for both, work on (assumption log 2). -/
structure State extends EngineState, Given
deriving DecidableEq, Repr

/-- The machine right after reset (R25), its parameters at their defaults. -/
def State.reset : State := {}

end Sys2Proof.Machine
end

