-- ==== Sys2Proof/Machine/Flags.lean ====
section
/-! DEFINITION. `STATUS` and `ERR`: the numbers of their values, the host's view of them, and how commands write them
(10_state.md rules R12, R19; 60_exceptions.md rules R200, R205). -/

namespace Sys2Proof.Machine

/-- The numbers of `STATUS.STATE` (R12). -/
def RunState.code : RunState → Nat
  | .idle => 0
  | .busy => 1
  | .done => 2
  | .error => 3

/-- The numbers of `STATUS.FSM` (R12). -/
def Fsm.code : Fsm → Nat
  | .none => 0
  | .header => 1
  | .blocks => 2
  | .endMark => 3
  | .finished => 4
  | .failed => 5

/-- The error codes (R200). -/
def ErrCode.code : ErrCode → Nat
  | .none => 0
  | .insufficientOutputSpace => 1
  | .malformedSequence => 2
  | .unexpectedEndOfInput => 3
  | .outputSizeMismatch => 4
  | .invalidMagicNumber => 5
  | .headerChecksumMismatch => 6
  | .blockChecksumMismatch => 7
  | .contentChecksumMismatch => 8
  | .formatViolation => 9
  | .illegalCommand => 10

/-- `STATUS` as the host reads it (R12): `STATE` 1:0, `STORED` 2, `MATCH` 3, `FSM` 6:4, `FSM_AT` 9:7, `LAST_CMD`
23:16, all else zero. -/
def Status.toWord (st : Status) : Word :=
  w32 (st.state.code + 2 ^ 2 * st.stored.toNat + 2 ^ 3 * st.found.toNat + 2 ^ 4 * st.fsm.code + 2 ^ 7 * st.fsmAt.code
    + 2 ^ 16 * st.lastCmd.toNat)

/-- The opcode of a command (R60). -/
def Cmd.opcode : Cmd → Byte
  | .cbound => 0x01#8
  | .cblock => 0x02#8
  | .dblock => 0x03#8
  | .cframe => 0x04#8
  | .dframe => 0x05#8
  | .mfclr => 0x10#8
  | .mffind => 0x11#8
  | .mfins => 0x12#8

/-- `STATUS` when a command with this opcode starts: every field but `STATE` cleared, `LAST_CMD` the opcode (R11,
R12, R15). -/
def Status.started (opcode : Byte) : Status := { state := .busy, lastCmd := opcode }

/-- Whether the running command is DFRAME or CFRAME (R205 step 4). -/
def Status.frameCmd (st : Status) : Bool := st.lastCmd == 0x04#8 || st.lastCmd == 0x05#8

/-- `STATUS` at error entry (R205 steps 4 and 5). -/
def Status.failed (st : Status) : Status :=
  if st.frameCmd then { st with fsmAt := st.fsm, fsm := .failed, state := .error } else { st with state := .error }

/-- `STATUS` after ABORT: zero but for `LAST_CMD` (R190). -/
def Status.aborted : Status := { lastCmd := 0x1F#8 }

end Sys2Proof.Machine
end

