-- ==== Sys2Proof/Machine/Ops.lean ====
section
/-! DEFINITION. The shared operations: access to the two buffers (20_memory.md), the start and the end of a command
(10_state.md rules R15, R18, R29), and taking an error (60_exceptions.md rule R205). -/

namespace Sys2Proof.Machine

/-! ### The buffers (R40, R41) -/

/-- `IN[a]` (R41); a free value while the byte has no specified content. -/
def State.inByte (s : State) (a : Nat) : Byte := (s.inb.read a).getD (Config.freeInByte s.inEpoch a)

/-- `MemRead(IN, a, n)` (R41). -/
def State.inBytes (s : State) (a n : Nat) : List Byte := (List.range' a n).map s.inByte

/-- What byte `a` of `OUT` reads as while it has no specified content: a free value, another one each time the byte has
lost its content, and the same one while it has not (R41; assumption log 1). -/
def State.outFree (s : State) (a : Nat) : Byte :=
  Config.freeOutByte (s.outEpoch + s.outFreed.countP fun r => decide (r.1 ≤ a) && decide (a < r.2)) a

/-- A byte of `OUT` from its buffer, where `free` gives the bytes without a specified content (R41). -/
def outByteOf (free : Nat → Byte) (m : Memory) (a : Nat) : Byte := (m.read a).getD (free a)

/-- `OUT[a]` (R41). -/
def State.outByte (s : State) (a : Nat) : Byte := outByteOf s.outFree s.outb a

/-- `MemRead(OUT, a, n)` (R41). -/
def State.outBytes (s : State) (a n : Nat) : List Byte := (List.range' a n).map s.outByte

/-- `MemWrite(OUT, a, n, bs)` (R41). -/
def State.outWrite (s : State) (a : Nat) (bs : List Byte) : State := { s with outb := s.outb.writeBytes a bs }

/-- The host's write to `IN` (R40). -/
def State.inWrite (s : State) (a : Nat) (bs : List Byte) : State := { s with inb := s.inb.writeBytes a bs }

/-- The byte-serial match copy: `OUT[op + i] <- OUT[op + i - off]` for `i = 0, 1, ..., m-1` (R47). -/
def copyBack (free : Nat → Byte) (off : Nat) : Nat → Nat → Memory → Memory
  | 0, _, mem => mem
  | m + 1, op, mem => copyBack free off m (op + 1) (mem.write op (outByteOf free mem (op - off)))

/-- The bytes of `OUT` from `lo` up to `hi` lose their specified content. -/
def State.freeOut (lo hi : Nat) (s : State) : State :=
  { s with outb := s.outb.forget lo hi, outFreed := (lo, hi) :: s.outFreed }

/-- The bytes of `OUT` from `OUT_LEN` up to `OUT_CAP` have no specified content after any command that has not ended in
an error with nothing written (R29; 93 U1; assumption log 11). -/
def State.scratchOut (s : State) : State := s.freeOut s.res.outLen.toNat s.opr.outCap.toNat

/-! ### The life of a command -/

/-- The internal registers outside a command: free values of their widths, `h` being `hashLog` bits wide (R17; 93 U2;
assumption log 4). -/
def Internal.released (hashLog k : Nat) : Internal where
  point := .idle
  ip := Config.freeReg k 0
  inEnd := Config.freeReg k 1
  op := Config.freeReg k 2
  histLo := Config.freeReg k 3
  limBlk := BitVec.cons ((Config.freeReg k 33).getLsbD 0) (Config.freeReg k 4)
  limBuf := if (Config.freeReg k 32).getLsbD 0 then none else some (Config.freeReg k 5)
  exactMode := (Config.freeReg k 6).getLsbD 0
  t := (Config.freeReg k 7).setWidth 8
  litLen := Config.freeReg k 8
  matchLen := Config.freeReg k 9
  off := (Config.freeReg k 10).setWidth 16
  pos := Config.freeReg k 11
  anchor := Config.freeReg k 12
  blkLo := Config.freeReg k 13
  blkHi := Config.freeReg k 14
  winLo := Config.freeReg k 15
  mlimit := Config.freeReg k 16
  cand := Config.freeReg k 17
  h := w32 ((Config.freeReg k 18).toNat % 2 ^ hashLog)
  mlen := Config.freeReg k 19
  flg := (Config.freeReg k 20).setWidth 8
  bd := (Config.freeReg k 21).setWidth 8
  indep := (Config.freeReg k 22).getLsbD 0
  bck := (Config.freeReg k 23).getLsbD 0
  csz := (Config.freeReg k 24).getLsbD 0
  cck := (Config.freeReg k 25).getLsbD 0
  did := (Config.freeReg k 26).getLsbD 0
  bmax := Config.freeReg k 27
  cc := Config.freeBytes k
  blkStored := (Config.freeReg k 28).getLsbD 0
  blkSize := (Config.freeReg k 29).setWidth 31
  bstart := Config.freeReg k 30
  ob := Config.freeReg k 31

/-- The session ends and its registers lose their values (R8, R17). -/
def State.release (s : State) : State :=
  { s with int := Internal.released s.cfg.hashLog s.fresh, fresh := s.fresh + 1 }

/-- A command starts: results, `ERR` and the `STATUS` fields cleared, `LAST_CMD` written, `STATE` Busy (R11, R15), at
the first line of its pseudocode (R26). -/
def State.startCmd (c : Cmd) (s : State) : State :=
  { s with status := Status.started c.opcode, err := .none, res := {}, int := { s.int with point := .entry c } }

/-- A command ends without error: `OUT` from `OUT_LEN` on is unspecified (R29). -/
def State.endDone (s : State) : State := { s with status := { s.status with state := .done } }.release.scratchOut

/-- A command that works on `OUT` ends without error: `OUT_LEN` and `IN_POS` written (R18). -/
def State.finish (outLen inPos : Word) (s : State) : State :=
  { s with res := { s.res with outLen := outLen, inPos := inPos } }.endDone

/-! ### Taking an error (R205) -/

/-- Error entry: `OUT_LEN` and `IN_POS` saved, `ERR` written, the frame state saved and set to Failed in a frame
command, `STATE` Error (R205). -/
def State.raise (e : ErrCode) (outLen inPos : Word) (s : State) : State :=
  { s with res := { s.res with outLen := outLen, inPos := inPos }, err := e, status := s.status.failed }.release

/-- `raise` where the line sets both cursors to 0: nothing is written, nothing else is touched (R201, R205). -/
def State.raiseUntouched (e : ErrCode) (s : State) : State := s.raise e 0#32 0#32

/-- `raise` in the decoder or the frame reader: `OUT_LEN <- op`, `IN_POS <- ip` (R205 step 2), the rest of `OUT`
unspecified (R29). -/
def State.raiseAtCursors (e : ErrCode) (s : State) : State := (s.raise e s.int.op s.int.ip).scratchOut

/-- Leaving an error: the next command, ABORT or reset (R208).  A reserved opcode written to `CMD` starts and at once
fails a command (R62, R203). -/
def State.illegalOpcode (opcode : Byte) (s : State) : State :=
  { s with status := Status.started opcode, err := .none, res := {} }.raiseUntouched .illegalCommand

/-- Whether a command runs. -/
def State.busy (s : State) : Bool := s.status.state == .busy

/-- ABORT: every `valid` bit, every result register and `ERR` cleared, `STATUS` zero but for `LAST_CMD`; the operand
registers and `IN` keep their values; when a command was running the contents of `OUT` are unspecified (R190; 93
U5; assumption log 17). -/
def State.abandon (s : State) : State :=
  let s1 := if s.busy then s.freeOut 0 s.opr.outCap.toNat else s
  { s1 with ht := [], res := {}, err := .none, status := Status.aborted }.release

/-- The reset event (R230, R25): every host-visible register 0, every `valid` bit 0, internal registers and both
buffers' contents unspecified.  The host's own side and the engine's parameters are outside its reach (assumption
log 18). -/
def State.hardReset (s : State) : State :=
  { State.reset with
    cfg := s.cfg, host := s.host, rdData := s.rdData, rdBytes := s.rdBytes, inEpoch := s.inEpoch + 1
    outEpoch := s.outEpoch + s.outFreed.length + 1, fresh := s.fresh }.release

end Sys2Proof.Machine
end

