-- ==== Sys2Proof/Machine/Operands.lean ====
section
/-! DEFINITION. The operands: the registers by number as the host reaches them (10_state.md rules R10, R14, R27), the
fields of `OPTIONS` (R13) and of the FLG and BD registers (30_encoding.md rules R75, R76), and the bytes at the place
where the engine reads its next element. -/

namespace Sys2Proof.Machine

/-! ### The registers by number (R10) -/

/-- The value of a register as the host reads it while the engine is not Busy: `CMD` and the numbers above 21 read 0
(R10, R215). -/
def State.readReg (s : State) : Nat → Word
  | 1 => s.status.toWord
  | 2 => w32 s.err.code
  | 3 => s.opr.options
  | 4 => s.opr.inLen
  | 5 => s.opr.outCap
  | 6 => s.opr.expLen
  | 7 => s.opr.pos
  | 8 => s.opr.winLo
  | 9 => s.opr.limit
  | 10 => s.res.outLen
  | 11 => s.res.inPos
  | 12 => s.res.boundLo
  | 13 => s.res.boundHi
  | 14 => s.res.matchOff
  | 15 => s.res.matchLen
  | 16 => s.res.desc
  | 17 => s.res.csizeLo
  | 18 => s.res.csizeHi
  | 19 => s.res.dictId
  | 20 => s.res.blockIdx
  | 21 => s.res.cksum
  | _ => 0#32

/-- A host write to a register other than `CMD`: the `RW` registers store all 32 bits, every other write is ignored
(R10, R14, R215). -/
def State.writeOperand (s : State) (v : Word) : Nat → State
  | 3 => { s with opr := { s.opr with options := v } }
  | 4 => { s with opr := { s.opr with inLen := v } }
  | 5 => { s with opr := { s.opr with outCap := v } }
  | 6 => { s with opr := { s.opr with expLen := v } }
  | 7 => { s with opr := { s.opr with pos := v } }
  | 8 => { s with opr := { s.opr with winLo := v } }
  | 9 => { s with opr := { s.opr with limit := v } }
  | _ => s

/-! ### Fields -/

/-- `OPTIONS` (R13). -/
def optIndep (options : Word) : Bool := options.getLsbD 0
def optBck (options : Word) : Bool := options.getLsbD 1
def optCck (options : Word) : Bool := options.getLsbD 2
def optCsz (options : Word) : Bool := options.getLsbD 3

/-- `dlen`, the length of the descriptor, from the two bits of FLG that give it (R162 step H2, R165). -/
def descLen (flg : Byte) : Nat := 2 + 8 * (flg.getLsbD 3).toNat + 4 * (flg.getLsbD 0).toNat

/-- The descriptor's fixed fields that step H3 refuses: version not 1, a reserved bit set, block maximum code below 4
(R162 step H3, R169). -/
def descIllegal (flg bd : Byte) : Bool :=
  decide (flg.toNat / 64 ≠ 1) || flg.getLsbD 1 || bd.getLsbD 7 || decide (bd.toNat % 16 ≠ 0)
    || decide (bd.toNat / 16 % 8 < 4)

/-- The block maximum size of a code: `2^(8 + 2*code)` bytes (R76). -/
def blockMax (code : Nat) : Nat := 2 ^ (8 + 2 * code)

/-- `DESC`: FLG, BD and HC bytes (R10). -/
def descWord (flg bd hc : Byte) : Word := w32 (flg.toNat + 2 ^ 8 * bd.toNat + 2 ^ 16 * hc.toNat)

/-! ### The next element (R162, R143) -/

/-- The site of the element that the engine reads at a point of its pseudocode, if it reads one there. -/
def Point.site : Point → Option Site
  | .tokens => some .token
  | .magic => some .magic
  | .flg => some .flg
  | .bd => some .bd
  | .hc => some .hc
  | .csize => some .csize
  | .dictid => some .dictid
  | .block => some .block
  | .bck => some .bck
  | .cck => some .cck
  | .idle | .entry _ | .scan | .nextBlock | .trailer => none

/-- The input index the element stands at: `ip`, but that `ip` stays at the descriptor until the header is whole and
at the payload until the block is (R162). -/
def Internal.fetchAt (i : Internal) : Site → Nat
  | .bd => i.ip.toNat + 1
  | .hc => i.ip.toNat + descLen i.flg
  | .csize => i.ip.toNat + 2
  | .dictid => i.ip.toNat + 2 + 8 * i.csz.toNat
  | .bck => i.ip.toNat + i.blkSize.toNat
  | .cmd | .token | .magic | .flg | .block | .cck => i.ip.toNat

/-- How many bytes must be there: `need` (R162). FLG is read when three bytes are (step H2). -/
def siteNeed : Site → Nat
  | .flg => 3
  | .bd | .hc => 1
  | .csize => 8
  | .cmd | .token => 0
  | .magic | .dictid | .block | .bck | .cck => 4

/-- The bytes the engine reads its next element from: the rest of the token stream, or the element's own bytes, none
if fewer than `need` are there. -/
def State.fetchBytes (s : State) (site : Site) : List Byte :=
  let a := s.int.fetchAt site
  match site with
  | .token => s.inBytes a (s.int.inEnd.toNat - a)
  | _ => if s.opr.inLen.toNat < a + siteNeed site then [] else s.inBytes a (siteNeed site)

end Sys2Proof.Machine
end

