-- ==== Sys2Proof/Machine/BlockDecoder.lean ====
section
/-! DEFINITION. The Block Decoder: DBLOCK and the steps of `DecodeTokens` (42_block_decoder.md). -/

namespace Sys2Proof.Machine

/-- DBLOCK, up to the token loop (R140). -/
def enterDblock (s : State) : State :=
  if s.opr.outCap < s.opr.expLen then s.raiseUntouched .outputSizeMismatch
  else
    { s with
      int :=
        { s.int with
          point := .tokens, ip := 0#32, inEnd := s.opr.inLen, op := 0#32, histLo := 0#32
          limBlk := s.opr.expLen.setWidth 33, limBuf := none, exactMode := true } }

/-- `Over(new_op)` (R142). -/
def Internal.over (i : Internal) (newOp : Nat) : Option ErrCode :=
  if i.limBlk.toNat < newOp then some .malformedSequence
  else
    match i.limBuf with
    | none => none
    | some buf => if buf.toNat < newOp then some .insufficientOutputSpace else none

/-- `ip` moved past `n` bytes. -/
def State.skip (n : Nat) (s : State) : State := { s with int := { s.int with ip := w32 (s.int.ip.toNat + n) } }

/-- R143 steps 1 and 2 for a token byte `t` and a literal length `n`: `ip` past the token byte and the length (R144,
R145). -/
def State.atLits (t : Byte) (n : Nat) (s : State) : State :=
  { s with int := { s.int with ip := w32 (s.int.ip.toNat + (1 + extLen n)), t := t, litLen := w32 n } }

/-- The literal copy of R143 step 3: both cursors past the literals (R146). -/
def State.copyLits (lit : List Byte) (s : State) : State :=
  { s with
    outb := s.outb.writeBytes s.int.op.toNat lit
    int :=
      { s.int with ip := w32 (s.int.ip.toNat + lit.length), op := w32 (s.int.op.toNat + lit.length) } }

/-- R143 steps 1 to 3: the length read, the limit check, the copy.  `error` carries the state of a command that has
ended (R144 to R146). -/
def State.litStep (t : Byte) (lit : List Byte) (s : State) : Except State State :=
  match s.int.over (s.int.op.toNat + lit.length) with
  | some e => .error ((s.atLits t lit.length).raiseAtCursors e)
  | none => .ok ((s.atLits t lit.length).copyLits lit)

/-- The offset of R143 step 5 has been read: `ip` past it (R147). -/
def State.atOff (off : BitVec 16) (s : State) : State :=
  { s with int := { s.int with ip := w32 (s.int.ip.toNat + 2), off := off } }

/-- R143 step 5 for an offset that has been read: its two checks (R147). -/
def State.offStep (off : BitVec 16) (s : State) : Except State State :=
  if off = 0 ∨ s.int.op.toNat - s.int.histLo.toNat < off.toNat then
    .error ((s.atOff off).raiseAtCursors .malformedSequence)
  else .ok (s.atOff off)

/-- R143 step 6 for a match length that has been read: `ip` past its extension (R148). -/
def State.atMatch (mlen : Nat) (s : State) : State :=
  { s with
    int := { s.int with ip := w32 (s.int.ip.toNat + extLen (mlen - Config.minMatch)), matchLen := w32 mlen } }

/-- The match copy of R143 step 7, and `op` past it (R149). -/
def State.copyMatch (mlen : Nat) (s : State) : State :=
  { s with
    outb := copyBack s.outFree s.int.off.toNat mlen s.int.op.toNat s.outb
    int := { s.int with op := w32 (s.int.op.toNat + mlen) } }

/-- R143 steps 6 and 7: the length read, the limit check, the copy (R148, R149). -/
def State.matchStep (mlen : Nat) (s : State) : Except State State :=
  match s.int.over (s.int.op.toNat + mlen) with
  | some e => .error ((s.atMatch mlen).raiseAtCursors e)
  | none => .ok ((s.atMatch mlen).copyMatch mlen)

/-- The state of either outcome. -/
def stateOf : Except State State → State
  | .error s => s
  | .ok s => s

/-- One SEQ (R64, R143 steps 1 to 7). -/
def seqState (lit : List Byte) (off : BitVec 16) (mlen : Nat) (s : State) : State :=
  stateOf do
    let s1 ← s.litStep (tokenByte lit.length (mlen - Config.minMatch)) lit
    let s2 ← s1.offStep off
    s2.matchStep mlen

/-- `ip` past a token byte `t` and what has been read of its literal length, `n` bytes in all. -/
def State.atToken (t : Byte) (n : Nat) (s : State) : State :=
  { s with int := { s.int with ip := w32 (s.int.ip.toNat + n), t := t } }

/-- R143's `raise` among the bytes of a token stream that are no encoded sequence: everything that stands before the
fault is done first (R206). -/
def rejectToken (r : Reject) (s : State) : State :=
  match r with
  | .litExtShort t used => (s.atToken t (1 + used)).raiseAtCursors .unexpectedEndOfInput
  | .litExtOver t used => (s.atToken t (1 + used)).raiseAtCursors .malformedSequence
  | .litShort t len => (s.atLits t len).raiseAtCursors .unexpectedEndOfInput
  | .offShort t lit =>
    stateOf do
      let s1 ← s.litStep t lit
      .error (s1.raiseAtCursors .unexpectedEndOfInput)
  | .offZero t lit =>
    stateOf do
      let s1 ← s.litStep t lit
      s1.offStep 0
  | .matchExtShort t lit off used =>
    stateOf do
      let s1 ← s.litStep t lit
      let s2 ← s1.offStep off
      .error ((s2.skip used).raiseAtCursors .unexpectedEndOfInput)
  | .matchExtOver t lit off used =>
    stateOf do
      let s1 ← s.litStep t lit
      let s2 ← s1.offStep off
      .error ((s2.skip used).raiseAtCursors .malformedSequence)
  | .noToken | .short | .reservedOpcode _ | .badMagic | .badFlg _ | .badBd _ => s.raiseAtCursors .unexpectedEndOfInput

end Sys2Proof.Machine
end

