-- ==== Sys2Proof/Machine/FrameReader.lean ====
section
/-! DEFINITION. The Frame Reader: DFRAME and the elements of a frame (43_frame.md rules R162 to R178), and the end of
a token stream, which is DBLOCK's end or a data block's (42_block_decoder.md rule R147). -/

namespace Sys2Proof.Machine

/-- DFRAME, up to step H1 (R162). -/
def enterDframe (s : State) : State :=
  { s with
    status := { s.status with fsm := .header }, res := { s.res with blockIdx := 0#32 }
    int := { s.int with point := .magic, ip := 0#32, op := 0#32, cc := [] } }

/-! ### The header (steps H1 to H4) -/

/-- The magic number has been read (step H1, R166). -/
def magicState (s : State) : State := { s.skip 4 with int := { (s.skip 4).int with point := .flg } }

/-- The FLG byte has been read (step H2). -/
def flgState (b : Byte) (s : State) : State := { s with int := { s.int with flg := b, point := .bd } }

/-- The BD byte has been read; the rest of the header must be there (step H2, R167). -/
def bdState (b : Byte) (s : State) : State :=
  let s1 := { s with int := { s.int with bd := b, point := .hc } }
  if s1.opr.inLen.toNat - s1.int.ip.toNat < descLen s1.int.flg + 1 then s1.raiseAtCursors .unexpectedEndOfInput else s1

/-- The end of step H4: the header is consumed and the blocks follow. -/
def openBlocks (s : State) : State :=
  let s1 := s.skip (descLen s.int.flg + 1)
  { s1 with status := { s1.status with fsm := .blocks }, int := { s1.int with point := .block } }

/-- Step H4: the descriptor flags and the block maximum size. -/
def latchFlags (s : State) : State :=
  { s with
    int :=
      { s.int with
        indep := s.int.flg.getLsbD 5, bck := s.int.flg.getLsbD 4, csz := s.int.flg.getLsbD 3
        cck := s.int.flg.getLsbD 2, did := s.int.flg.getLsbD 0, bmax := w32 (blockMax (s.int.bd.toNat / 16 % 8)) } }

/-- After the content size, or where there is none: the dictionary ID, or the end of the header (step H4). -/
def afterCsize (s : State) : State :=
  if s.int.did then { s with int := { s.int with point := .dictid } } else openBlocks s

/-- The HC byte has been read: `DESC`, the checksum (step H2, R167), the descriptor's fields (step H3, R169), the
flags (step H4). -/
def hcState (h : Byte) (s : State) : State :=
  let s1 := { s with res := { s.res with desc := descWord s.int.flg s.int.bd h } }
  if h ≠ headerByte s1.cfg (s1.inBytes s1.int.ip.toNat (descLen s1.int.flg)) then s1.raiseAtCursors .headerChecksumMismatch
  else if descIllegal s1.int.flg s1.int.bd then s1.raiseAtCursors .formatViolation
  else
    let s2 := latchFlags s1
    if s2.int.csz then { s2 with int := { s2.int with point := .csize } } else afterCsize s2

/-- The content size has been read (step H4, R77). -/
def csizeState (v : BitVec 64) (s : State) : State :=
  afterCsize
    { s with res := { s.res with csizeLo := w32 (v.toNat % 2 ^ 32), csizeHi := w32 (v.toNat / 2 ^ 32) } }

/-- The dictionary ID has been read; it is recorded and not used (step H4, R168). -/
def dictidState (v : Word) (s : State) : State := openBlocks { s with res := { s.res with dictId := v } }

/-! ### The data blocks (steps B1 to B5) -/

/-- Step B5: past the block's checksum, its output fed to the content checksum, the block counted (R174). -/
def closeBlock (s : State) : State :=
  let fed := if s.int.cck then s.outBytes s.int.bstart.toNat (s.int.op.toNat - s.int.bstart.toNat) else []
  let s1 := s.skip (4 * s.int.bck.toNat)
  { s1 with
    res := { s1.res with blockIdx := s1.res.blockIdx + 1#32 }
    int := { s1.int with cc := s1.int.cc ++ fed, point := .block } }

/-- Step B4 for a stored block: the limit check, the copy, step B5 (R172). -/
def storedPayload (s : State) : State :=
  let sz := s.int.blkSize.toNat
  if s.opr.outCap.toNat < s.int.op.toNat + sz then s.raiseAtCursors .insufficientOutputSpace
  else
    let s1 := (s.outWrite s.int.op.toNat (s.inBytes s.int.ip.toNat sz)).skip sz
    closeBlock { s1 with int := { s1.int with op := w32 (s1.int.op.toNat + sz) } }

/-- Step B4 for a compressed block: the decoder set up in bounded mode (R173). -/
def tokenPayload (s : State) : State :=
  { s with
    int :=
      { s.int with
        point := .tokens, inEnd := w32 (s.int.ip.toNat + s.int.blkSize.toNat)
        histLo := if s.int.indep then s.int.op else 0#32
        limBlk := BitVec.ofNat 33 (s.int.op.toNat + s.int.bmax.toNat), limBuf := some s.opr.outCap
        exactMode := false } }

/-- Step B4. -/
def startPayload (s : State) : State :=
  let s1 := { s with int := { s.int with bstart := s.int.op } }
  if s1.int.blkStored then storedPayload s1 else tokenPayload s1

/-- A block size word has been read: its size against the block maximum, the presence of the payload and its
checksum, then the checksum (step B3) or the payload (step B4) (steps B1, B2, R170, R171). -/
def bsizeState (stored : Bool) (size : BitVec 31) (s : State) : State :=
  let s1 := s.skip 4
  let s2 := { s1 with int := { s1.int with blkStored := stored, blkSize := size } }
  if s2.int.bmax.toNat < size.toNat then s2.raiseAtCursors .formatViolation
  else if s2.opr.inLen.toNat - s2.int.ip.toNat < size.toNat + 4 * s2.int.bck.toNat then
    s2.raiseAtCursors .unexpectedEndOfInput
  else if s2.int.bck then { s2 with int := { s2.int with point := .bck } }
  else startPayload s2

/-- The block checksum has been read: compared with that of the payload before the block is decoded (step B3, R171). -/
def bckState (k : Word) (s : State) : State :=
  if k ≠ ck32 s.cfg (s.inBytes s.int.ip.toNat s.int.blkSize.toNat) then s.raiseAtCursors .blockChecksumMismatch
  else startPayload s

/-! ### The trailer (steps E1 to E3) -/

/-- Step E3 and the end of DFRAME (R177). -/
def closeFrame (s : State) : State :=
  if s.int.csz ∧ s.res.csizeLo.toNat + 2 ^ 32 * s.res.csizeHi.toNat ≠ s.int.op.toNat then
    s.raiseAtCursors .outputSizeMismatch
  else { s with status := { s.status with fsm := .finished } }.finish s.int.op s.int.ip

/-- The EndMark has been read (steps B1, E1; R170, R175). -/
def endmarkState (s : State) : State :=
  let s1 := { s with status := { s.status with fsm := .endMark } }.skip 4
  if s1.int.cck then { s1 with int := { s1.int with point := .cck } } else closeFrame s1

/-- The content checksum has been read (step E2, R175). -/
def cckState (k : Word) (s : State) : State :=
  let s1 := { s with res := { s.res with cksum := ck32 s.cfg s.int.cc } }
  if k ≠ s1.res.cksum then s1.raiseAtCursors .contentChecksumMismatch else closeFrame (s1.skip 4)

/-! ### The end of a token stream -/

/-- The terminal test has succeeded: the expected length in exact mode, and then DBLOCK's end; in bounded mode the end
of the data block (R143 step 4, R147, R140, R162 step B5). -/
def terminalState (s : State) : State :=
  if s.int.exactMode then
    if s.int.op.toNat ≠ s.int.limBlk.toNat then s.raiseAtCursors .outputSizeMismatch else s.finish s.int.op s.int.ip
  else closeBlock s

/-- One LAST (R70, R143 steps 1 to 4). -/
def lastState (lit : List Byte) (mc : BitVec 4) (s : State) : State :=
  stateOf do
    let s1 ← s.litStep (BitVec.ofNat 8 (16 * lenCode lit.length + mc.toNat)) lit
    .ok (terminalState s1)

/-! ### Bytes that are no element -/

/-- What the reader does at bytes that are no instruction (R84): the error they name, but that a descriptor byte with
an illegal field is refused only after the header checksum has matched (R165, R169). -/
def rejectElement (r : Reject) (s : State) : State :=
  match r with
  | .short => s.raiseAtCursors .unexpectedEndOfInput
  | .badMagic => s.raiseAtCursors .invalidMagicNumber
  | .badFlg b => flgState b s
  | .badBd b => bdState b s
  | .noToken | .litExtShort _ _ | .litExtOver _ _ | .litShort _ _ | .offShort _ _ | .offZero _ _ => rejectToken r s
  | .matchExtShort _ _ _ _ | .matchExtOver _ _ _ _ => rejectToken r s
  | .reservedOpcode b => s.illegalOpcode b

end Sys2Proof.Machine
end

