-- ==== Sys2Proof/Machine/MatchFinder.lean ====
section
/-! DEFINITION. The Hash Match Finder: MFCLR, MFFIND, MFINS (40_match_finder.md). -/

namespace Sys2Proof.Machine

/-- The hash of a 4-byte word (R101). -/
def hashWord (cfg : Params) (w : Word) : Nat := ((w * cfg.hashMult) >>> (32 - cfg.hashLog)).toNat

/-- `Hash(p)` (R101). -/
def State.hashAt (s : State) (p : Nat) : Nat := hashWord s.cfg (u32le (s.inBytes p 4))

/-- `MF_Clear()` (R102). -/
def State.mfClear (s : State) : State := { s with ht := [] }

/-- `MF_Probe(p)`: the candidate position, if the bucket is valid (R103). -/
def State.mfProbe (s : State) (p : Nat) : Option Word := s.ht.get (s.hashAt p)

/-- The forward extension of R104: how many of the next `k` bytes agree. -/
def State.extend (s : State) (c p : Nat) : Nat → Nat
  | 0 => 0
  | k + 1 => if s.inByte c = s.inByte p then s.extend (c + 1) (p + 1) k + 1 else 0

/-- `MF_Lookup(p, win_lo, limit)`: offset and length of the match (R104). -/
def State.mfLookup (s : State) (p winLo limit : Nat) : Option (Nat × Nat) :=
  match s.mfProbe p with
  | none => none
  | some cand =>
    let c := cand.toNat
    if c < p ∧ p - c ≤ Config.maxDistance ∧ winLo ≤ c ∧ s.inBytes c 4 = s.inBytes p 4 then
      some (p - c, Config.minMatch + s.extend (c + 4) (p + 4) (limit - (p + 4)))
    else none

/-- `MF_Insert(p)` (R105). -/
def State.mfInsert (s : State) (p : Nat) : State := { s with ht := s.ht.put (s.hashAt p) (w32 p) }

/-- The registers of MF that a lookup leaves: `h`, and `cand` when the bucket was valid, and `mlen` when a match was
found (R17). -/
def State.mfRegs (s : State) (p : Nat) (r : Option (Nat × Nat)) : State :=
  { s with
    int :=
      { s.int with
        h := w32 (s.hashAt p), cand := (s.mfProbe p).getD s.int.cand
        mlen := (r.map fun m => w32 m.2).getD s.int.mlen } }

/-- `MF_Find(p, win_lo, limit)`: lookup, then insert (R106). -/
def State.mfFind (s : State) (p winLo limit : Nat) : Option (Nat × Nat) × State :=
  let r := s.mfLookup p winLo limit
  (r, (s.mfRegs p r).mfInsert p)

/-- The loop of `MF_ExtendBack`: how far a match at `p` with source `c` extends backward (R107); `k` bounds the
iterations. -/
def State.extendBack (s : State) (anchor winLo : Nat) : Nat → Nat → Nat → Nat
  | 0, _, _ => 0
  | k + 1, p, c =>
    if anchor < p ∧ winLo < c ∧ s.inByte (p - 1) = s.inByte (c - 1) then
      s.extendBack anchor winLo k (p - 1) (c - 1) + 1
    else 0

/-- `MF_ExtendBack`: where the match starts and how long it is; the identity when `BACKWARD_EXTEND` is false (R107). -/
def State.mfExtendBack (s : State) (p offset length anchor winLo : Nat) : Nat × Nat :=
  if s.cfg.backwardExtend then
    let k := s.extendBack anchor winLo p p (p - offset)
    (p - k, length + k)
  else (p, length)

/-- MFCLR (R102). -/
def enterMfclr (s : State) : State := s.mfClear.endDone

/-- MFINS (R105). -/
def enterMfins (s : State) : State :=
  let p := s.opr.pos.toNat
  if s.opr.inLen.toNat < p + 4 then s.raiseUntouched .illegalCommand else (s.mfInsert p).endDone

/-- The result registers of MFFIND (R106). -/
def State.matchResult (s : State) : Option (Nat × Nat) → State
  | none =>
    { s with status := { s.status with found := false }, res := { s.res with matchOff := 0#32, matchLen := 0#32 } }
  | some (off, len) =>
    { s with
      status := { s.status with found := true }, res := { s.res with matchOff := w32 off, matchLen := w32 len } }

/-- MFFIND (R106). -/
def enterMffind (s : State) : State :=
  let p := s.opr.pos.toNat
  if s.opr.limit.toNat < p + 4 ∨ s.opr.inLen < s.opr.limit then s.raiseUntouched .illegalCommand
  else
    let r := s.mfFind p s.opr.winLo.toNat s.opr.limit.toNat
    (r.2.matchResult r.1).endDone

end Sys2Proof.Machine
end

