-- ==== Sys2Proof/Machine/BlockEncoder.lean ====
section
/-! DEFINITION. The Block Encoder: CBOUND, CBLOCK and the loop of `EncodeRegion` (41_block_encoder.md). -/

namespace Sys2Proof.Machine

/-- `compressBound(n)`, in unbounded naturals (R120). -/
def compressBound (n : Nat) : Nat := n + n / 255 + 16

/-- CBOUND (R120). -/
def enterCbound (s : State) : State :=
  let b := compressBound s.opr.inLen.toNat
  { s with res := { s.res with boundLo := w32 b, boundHi := w32 (b / 2 ^ 32) } }.endDone

/-- The first lines of `EncodeRegion(lo, hi, win_lo, ob)`: the cursors set, at the head of its loop (R123).
For a region that ends below `LAST_LITERALS`, where R123 gives `mlimit` no value and no step reads it, `mlimit` is 0: the
model's choice (assumption log 22). -/
def State.openRegion (lo hi winLo ob : Nat) (s : State) : State :=
  { s with
    int :=
      { s.int with
        point := .scan, blkLo := w32 lo, blkHi := w32 hi, winLo := w32 winLo, ob := w32 ob, pos := w32 lo
        anchor := w32 lo, op := w32 ob, mlimit := w32 (hi - Config.lastLiterals) } }

/-- CBLOCK, up to the loop (R121, R122). -/
def enterCblock (s : State) : State :=
  let n := s.opr.inLen.toNat
  if s.opr.outCap.toNat < compressBound n then s.raiseUntouched .insufficientOutputSpace
  else s.mfClear.openRegion 0 n 0 0

/-- Write bytes at `op` and move it past them (R123). -/
def State.emit (bs : List Byte) (s : State) : State :=
  { s.outWrite s.int.op.toNat bs with int := { s.int with op := w32 (s.int.op.toNat + bs.length) } }

/-- The pending literals up to position `p` (R123). -/
def State.pendingLits (s : State) (p : Nat) : List Byte := s.inBytes s.int.anchor.toNat (p - s.int.anchor.toNat)

/-- One match found at `pos`: extended backward, emitted as a SEQ, and passed (R123). -/
def State.emitMatch (off len : Nat) (s : State) : State :=
  let m := s.mfExtendBack s.int.pos.toNat off len s.int.anchor.toNat s.int.winLo.toNat
  let s1 := s.emit (encodeSeq (s.pendingLits m.1) (BitVec.ofNat 16 off) m.2)
  { s1 with int := { s1.int with pos := w32 (m.1 + m.2), anchor := w32 (m.1 + m.2) } }

/-- One iteration of the loop of `EncodeRegion`: lookup at `pos`, then a literal or a match (R123). -/
def scanOne (s : State) : State :=
  let r := s.mfFind s.int.pos.toNat s.int.winLo.toNat s.int.mlimit.toNat
  match r.1 with
  | none => { r.2 with int := { r.2.int with pos := w32 (s.int.pos.toNat + 1) } }
  | some (off, len) => r.2.emitMatch off len

/-- The terminal sequence of the block (R123). -/
def State.emitLast (s : State) : State := s.emit (encodeLast (s.pendingLits s.int.blkHi.toNat) 0#4)

/-- The length of the token stream written so far (R123). -/
def State.streamLen (s : State) : Nat := s.int.op.toNat - s.int.ob.toNat

/-- The stored decision: the token stream is not smaller than the raw bytes (R126). -/
def State.storeRaw (s : State) : Bool :=
  decide (s.int.blkHi.toNat - s.int.blkLo.toNat ≤ s.streamLen + s.cfg.storedOverhead)

/-- The end of CBLOCK, after its token stream is complete (R121, R126). -/
def endCblock (s : State) : State :=
  let n := s.opr.inLen.toNat
  if s.storeRaw then
    let s1 := s.outWrite 0 (s.inBytes 0 n)
    { s1 with status := { s1.status with stored := true } }.finish (w32 n) (w32 n)
  else { s with status := { s.status with stored := false } }.finish (w32 s.streamLen) (w32 n)

end Sys2Proof.Machine
end

