-- ==== Sys2Proof/Machine/FrameWriter.lean ====
section
/-! DEFINITION. The Frame Writer: CFRAME (43_frame.md rules R179 to R184). -/

namespace Sys2Proof.Machine

/-- What one data block of `b` raw bytes may take: size word, worst-case payload, checksum (R181). -/
def blockBound (bck : Bool) (b : Nat) : Nat := 4 + compressBound b + 4 * bck.toNat

/-- `FrameBound(n, bck, cck, csz)` for a block maximum size (R181). -/
def frameBound (bmax n : Nat) (bck cck csz : Bool) : Nat :=
  (7 + 8 * csz.toNat) + (n / bmax * blockBound bck bmax + if n % bmax = 0 then 0 else blockBound bck (n % bmax))
    + (4 + 4 * cck.toNat)

/-- The descriptor that the writer produces (R183). -/
def writerDescriptor (cfg : Params) (options : Word) (n : Nat) : List Byte :=
  [flgByte (optIndep options) (optBck options) (optCsz options) (optCck options) false false
    , BitVec.ofNat 8 (16 * cfg.blockMaxCode)]
    ++ if optCsz options then leBytes 8 n else []

/-- CFRAME step W1: the header written, the table cleared, the blocks follow (R179, R183). -/
def writeHeader (s : State) : State :=
  let n := s.opr.inLen.toNat
  let d := writerDescriptor s.cfg s.opr.options n
  let hc := headerByte s.cfg d
  let s1 := (s.outWrite 0 (magicBytes ++ d ++ [hc])).mfClear
  { s1 with
    status := { s1.status with fsm := .blocks }
    res :=
      { s1.res with
        desc := descWord (d.headD 0#8) (d.tail.headD 0#8) hc
        csizeLo := if optCsz s.opr.options then w32 n else s1.res.csizeLo
        csizeHi := if optCsz s.opr.options then 0#32 else s1.res.csizeHi }
    int :=
      { s1.int with
        flg := d.headD 0#8, bd := d.tail.headD 0#8, op := w32 (4 + d.length + 1), point := .nextBlock } }

/-- CFRAME, up to the loop W2 (R179). -/
def enterCframe (s : State) : State :=
  let n := s.opr.inLen.toNat
  let o := s.opr.options
  let bmax := blockMax s.cfg.blockMaxCode
  let s1 :=
    { s with
      status := { s.status with fsm := .header }, res := { s.res with blockIdx := 0#32 }
      int :=
        { s.int with
          indep := optIndep o, bck := optBck o, cck := optCck o, csz := optCsz o, did := false, bmax := w32 bmax
          pos := 0#32, op := 0#32, cc := [] } }
  if s1.opr.outCap.toNat < frameBound bmax n (optBck o) (optCck o) (optCsz o) then
    s1.raiseUntouched .insufficientOutputSpace
  else writeHeader s1

/-- The head of the loop W2: the next block opened, or the trailer (R179, R182, R185, R186). -/
def nextBlock (s : State) : State :=
  let n := s.opr.inLen.toNat
  let lo := s.int.pos.toNat
  if lo < n then
    let s1 := if s.int.indep then s.mfClear else s
    s1.openRegion lo (min n (lo + s.int.bmax.toNat)) (if s.int.indep then lo else 0) (s.int.op.toNat + 4)
  else { s with status := { s.status with fsm := .endMark }, int := { s.int with point := .trailer } }

/-- The payload of a data block settled: the token stream already written, or the raw bytes in its place (R126,
R182).  The result is the payload's length and stored bit. -/
def settlePayload (s : State) : State × Nat × Bool :=
  let b := s.int.blkHi.toNat - s.int.blkLo.toNat
  if s.storeRaw then (s.outWrite s.int.ob.toNat (s.inBytes s.int.blkLo.toNat b), b, true) else (s, s.streamLen, false)

/-- The rest of the loop W2 after the block's token stream is complete: size word, block checksum, content checksum
fed, block counted (R179). -/
def endFrameBlock (s : State) : State :=
  let (s1, plen, st) := settlePayload s
  let ob := s1.int.ob.toNat
  let s2 := s1.outWrite (ob - 4) (leBytes 4 (blockWord st plen))
  let s3 := { s2 with int := { s2.int with op := w32 (ob + plen) } }
  let s4 := if s3.int.bck then s3.emit (leBytes 4 (ck32 s3.cfg (s3.outBytes ob plen)).toNat) else s3
  let fed := if s4.int.cck then s4.inBytes s4.int.blkLo.toNat (s4.int.blkHi.toNat - s4.int.blkLo.toNat) else []
  { s4 with
    res := { s4.res with blockIdx := s4.res.blockIdx + 1#32 }
    int := { s4.int with cc := s4.int.cc ++ fed, pos := s4.int.blkHi, point := .nextBlock } }

/-- CFRAME step W3 and its end (R179, R184). -/
def writeTrailer (s : State) : State :=
  let s1 := s.emit (leBytes 4 0)
  let s2 :=
    if s1.int.cck then
      { s1 with res := { s1.res with cksum := ck32 s1.cfg s1.int.cc } }.emit (leBytes 4 (ck32 s1.cfg s1.int.cc).toNat)
    else s1
  { s2 with status := { s2.status with fsm := .finished } }.finish s2.int.op s2.opr.inLen

end Sys2Proof.Machine
end

