-- ==== Sys2Proof/Machine/Engine.lean ====
section
/-! DEFINITION. The engine at work: one whole step of the running command, and a command run to its end
(00_scope.md rule R7; 43_frame.md rule R190; 70_reset_and_hazards.md rules R245, R246). -/

namespace Sys2Proof.Machine

/-- The effect of an element of a token stream or frame on the running command. (A command is no element.) -/
def elementState (i : Instr) (s : State) : State :=
  match i with
  | .seq lit off mlen => seqState lit off mlen s
  | .last lit mc => lastState lit mc s
  | .magic => magicState s
  | .flg indep bck csz cck rsv did => flgState (flgByte indep bck csz cck rsv did) s
  | .bd code => bdState (bdByte code) s
  | .csize v => csizeState v s
  | .dictid v => dictidState v s
  | .hc h => hcState h s
  | .bsize stored size => bsizeState stored size s
  | .bck k => bckState k s
  | .endmark => endmarkState s
  | .cck k => cckState k s
  | .cbound | .cblock | .dblock | .cframe | .dframe | .mfclr | .mffind | .mfins | .abort => s

/-- The engine reads the element at a site and acts on it. -/
def readElement (site : Site) (s : State) : State :=
  match decode site (s.fetchBytes site) with
  | .ok i => elementState i s
  | .error r => rejectElement r s

/-- The first line of a command's pseudocode (R26). -/
def enter : Cmd → State → State
  | .cbound => enterCbound
  | .cblock => enterCblock
  | .dblock => enterDblock
  | .cframe => enterCframe
  | .dframe => enterDframe
  | .mfclr => enterMfclr
  | .mffind => enterMffind
  | .mfins => enterMfins

/-- The head of the loop of `EncodeRegion`: one position, or the terminal sequence and what CBLOCK or CFRAME does with
the finished token stream (R123, R121, R179). -/
def scanState (s : State) : State :=
  if s.int.pos.toNat + s.cfg.mfLimit ≤ s.int.blkHi.toNat then scanOne s
  else if s.status.frameCmd then endFrameBlock s.emitLast
  else endCblock s.emitLast

/-- One whole step of the running command; nothing when none runs. -/
def engineStep (s : State) : State :=
  match s.int.point with
  | .idle => s
  | .entry c => enter c s
  | .scan => scanState s
  | .nextBlock => nextBlock s
  | .trailer => writeTrailer s
  | .tokens => readElement .token s
  | .magic => readElement .magic s
  | .flg => readElement .flg s
  | .bd => readElement .bd s
  | .hc => readElement .hc s
  | .csize => readElement .csize s
  | .dictid => readElement .dictid s
  | .block => readElement .block s
  | .bck => readElement .bck s
  | .cck => readElement .cck s

/-- At most this many steps of the engine, while it is Busy. -/
def runEngine : Nat → State → State
  | 0, s => s
  | k + 1, s => if s.busy then runEngine k (engineStep s) else s

/-- A number of steps within which every command ends: each step but a few uses up a byte of input, and at most three
steps are made per byte (R210, R246). -/
def State.fuel (s : State) : Nat := 3 * s.opr.inLen.toNat + 16

/-- The host waits until the engine is not Busy (R86, R210). -/
def State.runToEnd (s : State) : State := runEngine s.fuel s

/-- A command: ignored while Busy (R11), else started and run to its end (R245). -/
def runCommand (c : Cmd) (s : State) : State := if s.busy then s else (s.startCmd c).runToEnd

end Sys2Proof.Machine
end

