-- ==== Sys2Proof/Machine/Commands.lean ====
section
/-! DEFINITION. The meaning of each host command (30_encoding.md rule R60). -/

namespace Sys2Proof.Machine

/-- CBOUND (R120). -/
def execCbound (s : State) : Host.Outcome State Fault Refusal := .next (runCommand .cbound s)

/-- CBLOCK (R121). -/
def execCblock (s : State) : Host.Outcome State Fault Refusal := .next (runCommand .cblock s)

/-- DBLOCK (R140). -/
def execDblock (s : State) : Host.Outcome State Fault Refusal := .next (runCommand .dblock s)

/-- CFRAME (R179). -/
def execCframe (s : State) : Host.Outcome State Fault Refusal := .next (runCommand .cframe s)

/-- DFRAME (R162). -/
def execDframe (s : State) : Host.Outcome State Fault Refusal := .next (runCommand .dframe s)

/-- MFCLR (R102). -/
def execMfclr (s : State) : Host.Outcome State Fault Refusal := .next (runCommand .mfclr s)

/-- MFFIND (R106). -/
def execMffind (s : State) : Host.Outcome State Fault Refusal := .next (runCommand .mffind s)

/-- MFINS (R105). -/
def execMfins (s : State) : Host.Outcome State Fault Refusal := .next (runCommand .mfins s)

/-- ABORT, accepted in every state (R190). -/
def execAbort (s : State) : Host.Outcome State Fault Refusal := .next s.abandon

end Sys2Proof.Machine
end

