-- ==== Sys2Proof/Machine/Elements.lean ====
section
/-! DEFINITION. The meaning of each element of a token stream (30_encoding.md rule R63) and of a frame (R73): what
the engine does when it has read it, at the place its pseudocode reads it (42_block_decoder.md, 43_frame.md). -/

namespace Sys2Proof.Machine

/-- SEQ (R64, R143). -/
def execSeq (lit : List Byte) (off : BitVec 16) (mlen : Nat) (s : State) : Host.Outcome State Fault Refusal :=
  .next (seqState lit off mlen s)

/-- LAST (R70, R143, R147). -/
def execLast (lit : List Byte) (mc : BitVec 4) (s : State) : Host.Outcome State Fault Refusal :=
  .next (lastState lit mc s)

/-- MAGIC (R74, R166). -/
def execMagic (s : State) : Host.Outcome State Fault Refusal := .next (magicState s)

/-- FLG (R75, R162 step H2). -/
def execFlg (indep bck csz cck rsv did : Bool) (s : State) : Host.Outcome State Fault Refusal :=
  .next (flgState (flgByte indep bck csz cck rsv did) s)

/-- BD (R76, R162 step H2). -/
def execBd (code : BitVec 3) (s : State) : Host.Outcome State Fault Refusal := .next (bdState (bdByte code) s)

/-- CSIZE (R77, R162 step H4). -/
def execCsize (v : BitVec 64) (s : State) : Host.Outcome State Fault Refusal := .next (csizeState v s)

/-- DICTID (R78, R168). -/
def execDictid (v : Word) (s : State) : Host.Outcome State Fault Refusal := .next (dictidState v s)

/-- HC (R79, R167, R169). -/
def execHc (h : Byte) (s : State) : Host.Outcome State Fault Refusal := .next (hcState h s)

/-- BSIZE (R80, R170, R171). -/
def execBsize (stored : Bool) (size : BitVec 31) (s : State) : Host.Outcome State Fault Refusal :=
  .next (bsizeState stored size s)

/-- BCK (R81, R171). -/
def execBck (k : Word) (s : State) : Host.Outcome State Fault Refusal := .next (bckState k s)

/-- ENDMARK (R82, R170, R175). -/
def execEndmark (s : State) : Host.Outcome State Fault Refusal := .next (endmarkState s)

/-- CCK (R83, R175). -/
def execCck (k : Word) (s : State) : Host.Outcome State Fault Refusal := .next (cckState k s)

end Sys2Proof.Machine
end

