-- ==== Sys2Proof/Machine/Dispatch.lean ====
section
/-! DEFINITION. The dispatch: the meaning of every instruction. -/

namespace Sys2Proof.Machine

def exec (i : Instr) (s : State) : Host.Outcome State Fault Refusal :=
  match i with
  -- host commands (R60)
  | .cbound => Sys2Proof.Machine.execCbound s
  | .cblock => Sys2Proof.Machine.execCblock s
  | .dblock => Sys2Proof.Machine.execDblock s
  | .cframe => Sys2Proof.Machine.execCframe s
  | .dframe => Sys2Proof.Machine.execDframe s
  | .mfclr => Sys2Proof.Machine.execMfclr s
  | .mffind => Sys2Proof.Machine.execMffind s
  | .mfins => Sys2Proof.Machine.execMfins s
  | .abort => Sys2Proof.Machine.execAbort s
  -- the token stream (R63)
  | .seq lit off mlen => Sys2Proof.Machine.execSeq lit off mlen s
  | .last lit mc => Sys2Proof.Machine.execLast lit mc s
  -- the frame (R73)
  | .magic => Sys2Proof.Machine.execMagic s
  | .flg indep bck csz cck rsv did => Sys2Proof.Machine.execFlg indep bck csz cck rsv did s
  | .bd code => Sys2Proof.Machine.execBd code s
  | .csize v => Sys2Proof.Machine.execCsize v s
  | .dictid v => Sys2Proof.Machine.execDictid v s
  | .hc h => Sys2Proof.Machine.execHc h s
  | .bsize stored size => Sys2Proof.Machine.execBsize stored size s
  | .bck k => Sys2Proof.Machine.execBck k s
  | .endmark => Sys2Proof.Machine.execEndmark s
  | .cck k => Sys2Proof.Machine.execCck k s

end Sys2Proof.Machine
end

