-- ==== Sys2Proof/Machine/HostPort.lean ====
section
/-! DEFINITION. The host's side: what each of its actions does to the machine (10_state.md rules R10, R11, R14, R27;
20_memory.md rules R40, R48; 30_encoding.md rules R60, R62, R86; 70_reset_and_hazards.md rule R230), and one step of
the machine. -/

namespace Sys2Proof.Machine

/-- The low byte of a write to `CMD` (R60). -/
def cmdByte (v : Word) : Byte := v.setWidth 8

/-- The command that runs, if the instruction is one (R60). -/
def commandOf : Instr → Option Cmd
  | .cbound => some .cbound
  | .cblock => some .cblock
  | .dblock => some .dblock
  | .cframe => some .cframe
  | .dframe => some .dframe
  | .mfclr => some .mfclr
  | .mffind => some .mffind
  | .mfins => some .mfins
  | .abort | .seq _ _ _ | .last _ _ | .magic | .flg _ _ _ _ _ _ | .bd _ | .csize _ | .dictid _ | .hc _ => none
  | .bsize _ _ | .bck _ | .endmark | .cck _ => none

/-- A write to `CMD` of an opcode that R60 does not define: ignored while Busy (R11), else an `IllegalCommand` (R62,
R203). -/
def reservedWrite (b : Byte) (s : State) : State := if s.busy then s else s.illegalOpcode b

/-- A write to `CMD` whose command runs to its end before the host's next action (R11, R60, R245). -/
def writeCmd (v : Word) (s : State) : Host.Outcome State Fault Refusal :=
  match decode .cmd [cmdByte v] with
  | .ok i => exec i s
  | .error _ => .next (reservedWrite (cmdByte v) s)

/-- A write to `CMD` after which the host does not wait (R11, R60). -/
def startCmdWrite (v : Word) (s : State) : Host.Outcome State Fault Refusal :=
  match decode .cmd [cmdByte v] with
  | .ok i =>
    match commandOf i with
    | some c => .next (if s.busy then s else s.startCmd c)
    | none => exec i s
  | .error _ => .next (reservedWrite (cmdByte v) s)

/-- A host write to a register: `CMD` starts a command; while Busy a write to any other is ignored (R11, R27). -/
def writeReg (r : Nat) (v : Word) (s : State) : Host.Outcome State Fault Refusal :=
  if r = 0 then writeCmd v s else .next (if s.busy then s else s.writeOperand v r)

/-- A host read of a register: while Busy any register but `STATUS` reads as a free value (R15; 93 U3; assumption log 5);
a number above 21, which is no register, reads 0 at all times (R10, R215; 93 U23).  From the command's end on the results
read as they are, whether or not the host has seen `STATUS` leave Busy: the model's choice (assumption log 21). -/
def readRegister (r : Nat) (s : State) : State :=
  if s.busy ∧ r ≠ 1 ∧ r ≤ 21 then { s with rdData := Config.freeBusyRead s.fresh r, fresh := s.fresh + 1 }
  else { s with rdData := s.readReg r }

/-- A host access to `n` bytes of a buffer from index `i`: outside the spec's model while Busy (R27; 93 U4; assumption
log 8), and to indices of `2^32` and above there is none (R40; assumption log 14).  From the command's end on it is made,
whether or not the host has seen `STATUS` leave Busy, which R48 (b) and R234 leave open: the model's choice (assumption
log 21). -/
def bufferAccess (sp : Space) (i n : Nat) (s t : State) : Host.Outcome State Fault Refusal :=
  if s.busy then .refused (.busyBufferAccess sp)
  else if 2 ^ 32 < i + n then .fault (.noSuchIndex sp (2 ^ 32))
  else .next t

/-- One action of the host. -/
def hostAct (a : HostAct) (s : State) : Host.Outcome State Fault Refusal :=
  match a with
  | .wr r v => writeReg r v s
  | .start v => startCmdWrite v s
  | .tick => .next (engineStep s)
  | .wait => .next s.runToEnd
  | .rd r => .next (readRegister r s)
  | .wrIn i bs => bufferAccess .inBuf i bs.length s (s.inWrite i bs)
  | .wrOut i bs => bufferAccess .outBuf i bs.length s (s.outWrite i bs)
  | .rdIn i n => bufferAccess .inBuf i n s { s with rdBytes := s.inBytes i n }
  | .rdOut i n => bufferAccess .outBuf i n s { s with rdBytes := s.outBytes i n }
  | .reset => .next s.hardReset

/-- The running command's next step: the element at the place its pseudocode reads one is decoded and executed; a
point that reads none is a step of the engine's own (R7, R16). -/
def runStep (s : State) : Host.Outcome State Fault Refusal :=
  match s.int.point.site with
  | some site =>
    match decode site (s.fetchBytes site) with
    | .ok i => exec i s
    | .error r => .next (rejectElement r s)
  | none => .next (engineStep s)

/-- One step of the machine: the host's next action; with none pending, the running command's next step; with none
running, the engine waits (R26, R231). -/
def machineStep (s : State) : Host.Outcome State Fault Refusal :=
  match s.host with
  | a :: rest => hostAct a { s with host := rest }
  | [] => if s.busy then runStep s else .next s

/-- The engine's state in an outcome. -/
def engineOf : Host.Outcome State Fault Refusal → Host.Outcome EngineState Fault Refusal
  | .next t => .next t.toEngineState
  | .fault f => .fault f
  | .refused r => .refused r

/-- An outcome of the engine, beside what the engine was given. -/
def withGiven (g : Given) : Host.Outcome EngineState Fault Refusal → Host.Outcome State Fault Refusal
  | .next e => .next { e, g with }
  | .fault f => .fault f
  | .refused r => .refused r

/-- The engine's step function, to which the parameters of a run are passed (R24): the constants of R3 and the contents
of `IN` in `g`, and the word written to `CMD`, if one is, with whether its command runs to its end in this step (R245;
assumption log 7).  The engine stores none of them. -/
def engineWith (g : Given) (cmd : Option (Word × Bool)) (e : EngineState) : Host.Outcome EngineState Fault Refusal :=
  let s : State := { e, g with }
  engineOf <|
    match cmd with
    | none => if s.busy then runStep s else .next s
    | some (v, true) => writeCmd v s
    | some (v, false) => startCmdWrite v s

/-- The engine with these parameters of a run, as a machine that stores none of them (R24). -/
def coreWith (g : Given) (cmd : Option (Word × Bool)) : Host.Core where
  State := EngineState
  Fault := Fault
  Refusal := Refusal
  step := engineWith g cmd
  reset := State.reset.toEngineState

/-- One step of the machine: the engine's, with what R24 says passed to it, where the host writes `CMD` or does nothing;
the host's own action on registers and buffers where it does another. -/
def stepState (s : State) : Host.Outcome State Fault Refusal :=
  match s.host with
  | [] => withGiven s.toGiven (engineWith s.toGiven none s.toEngineState)
  | a :: rest =>
    let g : Given := { s.toGiven with host := rest }
    match a with
    | .wr 0 v => withGiven g (engineWith g (some (v, true)) s.toEngineState)
    | .start v => withGiven g (engineWith g (some (v, false)) s.toEngineState)
    | a => hostAct a { s with host := rest }

/-! ### Placing an instruction where the next step reads it (assumption log 9) -/

/-- A frame command stopped before the element that begins at `IN[ip ..)`, of whose frame the header's FLG and BD are
`0x40 + flags` and `0x40`. -/
def State.beforeElement (s : State) (p : Point) (fsm : Fsm) (ip : Nat) (flags : Byte) : State :=
  { s with
    host := [], err := .none, status := { state := .busy, fsm := fsm, lastCmd := 0x05#8 }
    int :=
      { s.int with
        point := p, ip := w32 ip, flg := 0x40#8 + flags, bd := 0x40#8, csz := flags.getLsbD 3
        did := flags.getLsbD 0, bck := false, cck := false, indep := false, bmax := 65536#32, blkSize := 0#31
        blkStored := false } }

/-- DBLOCK stopped before the encoded sequence at `IN[0 ..)`, its stream `n` bytes long, with 65535 bytes of output
produced and `room` more expected. -/
def State.beforeToken (s : State) (n room : Nat) : State :=
  { s with
    host := [], err := .none, status := Status.started 0x03#8
    int :=
      { s.int with
        point := .tokens, ip := 0#32, inEnd := w32 n, histLo := 0#32, op := 65535#32, limBlk := BitVec.ofNat 33 (65535 + room), limBuf := none
        exactMode := true } }

/-- Bytes placed in `IN`, and `IN_LEN` at least up to `n`. -/
def State.withInput (s : State) (a : Nat) (bs : List Byte) (n : Nat) : State :=
  let s1 := s.inWrite a bs
  { s1 with opr := { s1.opr with inLen := w32 (max s1.opr.inLen.toNat n) } }

/-- The machine about to run one instruction. -/
def placeInstr (i : Instr) (s : State) : State :=
  match i with
  | .seq lit _ mlen => (s.withInput 0 (encode i) i.size).beforeToken i.size (lit.length + mlen)
  | .last lit _ => (s.withInput 0 (encode i) i.size).beforeToken i.size lit.length
  | .magic => (s.withInput 0 (encode i) 4).beforeElement .magic .header 0 0#8
  | .flg _ _ _ _ _ _ => (s.withInput 4 (encode i) 19).beforeElement .flg .header 4 0#8
  | .bd _ => (s.withInput 5 (encode i) 7).beforeElement .bd .header 4 0#8
  | .hc _ => ((s.withInput 4 [0x40#8, 0x40#8] 7).withInput 6 (encode i) 7).beforeElement .hc .header 4 0#8
  | .csize _ => (s.withInput 6 (encode i) 15).beforeElement .csize .header 4 0x08#8
  | .dictid _ => (s.withInput 6 (encode i) 11).beforeElement .dictid .header 4 0x01#8
  | .bsize _ _ | .endmark => (s.withInput 7 (encode i) 11).beforeElement .block .blocks 7 0#8
  | .bck _ => (s.withInput 11 (encode i) 15).beforeElement .bck .blocks 11 0#8
  | .cck _ => (s.withInput 11 (encode i) 15).beforeElement .cck .endMark 11 0#8
  | .cbound | .cblock | .dblock | .cframe | .dframe | .mfclr | .mffind | .mfins | .abort =>
    let s1 := if s.busy then { s with status := {}, int := { s.int with point := .idle } } else s
    { s1 with host := [.wr 0 ((encode i).headD 0#8 |>.setWidth 32)] }

/-- The machine about to run the instruction of a word of the opcode table; a byte that is none is written to `CMD`. -/
def placeWord (nbits w : Nat) (s : State) : State :=
  match decodeTableWord nbits w with
  | some i => placeInstr i s
  | none => { s with host := [.wr 0 (w32 w)] }

end Sys2Proof.Machine
end

