-- ==== Sys2Proof/Machine/Step.lean ====
section
/-! DEFINITION. One step of the machine, and where it reads its next instruction. -/

namespace Sys2Proof.Machine

/-- One step: `stepState`. -/
def step (s : State) : Host.Outcome State Fault Refusal := stepState s

/-- The state with a word's instruction where the next step reads it: `placeWord`. -/
def State.withFetchWord (s : State) (nbits w : Nat) : State := placeWord nbits w s

end Sys2Proof.Machine
end

