-- ==== Sys2Proof/Safety.lean ====
section
/-! DEFINITION. The terms the claims use: what a frame keeps, the invariants, and the replay of a block's sequences
over plain byte lists. -/

namespace Sys2Proof.Machine

/-! ### Frames -/

/-- The operand registers and the parameters are as before. -/
def SameOperands (s t : State) : Prop := t.opr = s.opr ∧ t.cfg = s.cfg

/-- Every byte of `IN` reads as before. -/
def SameIn (s t : State) : Prop := ∀ a, t.inByte a = s.inByte a

/-- Every byte of `OUT` outside `[lo, hi)` has the content, or the lack of one, that it had. -/
def SameOutBut (lo hi : Nat) (s t : State) : Prop := ∀ a, a < lo ∨ hi ≤ a → t.outb.read a = s.outb.read a

/-- Every byte of `OUT` reads as before. -/
def SameOut (s t : State) : Prop := ∀ a, t.outb.read a = s.outb.read a ∧ t.outByte a = s.outByte a

/-- The host's side is as before. -/
def SameHost (s t : State) : Prop := t.host = s.host ∧ t.rdData = s.rdData ∧ t.rdBytes = s.rdBytes

/-- What no command and no element changes: the operand registers, the parameters, `IN`, the host's side. -/
def Kept (s t : State) : Prop := SameOperands s t ∧ SameIn s t ∧ SameHost s t

/-! ### How commands end -/

/-- No byte of `OUT` outside `[lo, hi)` was written: each has the content it had, but that those from `hi` up to `OUT_CAP`
may have lost it (R29). -/
def Unwritten (lo hi : Nat) (s t : State) : Prop :=
  (∀ a, a < lo ∨ hi ≤ a → t.outb.read a = s.outb.read a ∨ t.outb.read a = none)
    ∧ ∀ a, a < lo ∨ (hi ≤ a ∧ s.opr.outCap.toNat ≤ a) → t.outb.read a = s.outb.read a ∧ t.outByte a = s.outByte a

/-- A command has ended with this `STATUS` and `ERR`, its result registers are `r` with the two cursors written (R18),
and it left unchanged the hash table and what no command changes.  It wrote no byte of `OUT` outside `[lo, OUT_LEN)`: each
reads as before or, from `OUT_LEN` up to `OUT_CAP`, may have lost its specified content (R29). (The internal registers
have no specified value then, R17.) -/
def Ended (st : Status) (e : ErrCode) (r : Results) (lo outLen inPos : Nat) (s t : State) : Prop :=
  t.status = st ∧ t.err = e ∧ t.res = { r with outLen := w32 outLen, inPos := w32 inPos } ∧ t.ht = s.ht ∧ Kept s t
    ∧ Unwritten lo outLen s t

/-- `STATUS` after error entry: `STATE` Error, and in a frame command `FSM` Failed and `FSM_AT` the state it was in
(R205 steps 4, 5). -/
def errorStatus (st : Status) : Status :=
  if st.lastCmd = 0x04#8 ∨ st.lastCmd = 0x05#8 then { st with state := .error, fsm := .failed, fsmAt := st.fsm }
  else { st with state := .error }

/-- The running command has raised an error: `Ended`, with the `STATUS` of error entry (R205). -/
def Raised (e : ErrCode) (r : Results) (lo outLen inPos : Nat) (s t : State) : Prop :=
  Ended (errorStatus s.status) e r lo outLen inPos s t

/-- A command has failed before it did anything: every result register but `ERR` and the status is 0, and hash table,
buffers and operands are as before (R29, R201, R203). -/
def FailedUntouched (st : Status) (e : ErrCode) (s t : State) : Prop :=
  t.status = st ∧ t.err = e ∧ t.res = {} ∧ t.ht = s.ht ∧ SameOut s t ∧ Kept s t

/-- Output up to index `n` passes no limit of the running command, nor `OUT_CAP` (R142). -/
def Room (n : Nat) (s : State) : Prop :=
  n ≤ s.int.limBlk.toNat ∧ n ≤ s.opr.outCap.toNat ∧ ∀ b, s.int.limBuf = some b → n ≤ b.toNat

/-! ### The invariant of every state a machine can be in -/

/-- Buffers and hash table are in canonical form, every entry of the table is one of its `2^HASH_LOG` (R20), and so is
the index register `h` (R17). -/
def State.dataOk (s : State) : Bool :=
  s.inb.wf && s.outb.wf && Table.wf s.ht && (s.ht.all fun e => decide (e.1 < 2 ^ s.cfg.hashLog))
    && decide (s.int.h.toNat < 2 ^ s.cfg.hashLog)

/-- `STATUS` and `ERR` agree (R12, R19, R200, R205): `STATE` is Error exactly when `ERR` names an error; `STORED` is
set only by CBLOCK and `MATCH` only by MFFIND, both at the command's end; `FSM` is set only by the frame commands;
Failed and `FSM_AT` only by an error of one. -/
def State.statusOk (s : State) : Bool :=
  (decide (s.status.state = .error) == decide (s.err ≠ .none))
    && (!s.status.stored || (decide (s.status.state = .done) && decide (s.status.lastCmd = 0x02#8)))
    && (!s.status.found || (decide (s.status.state = .done) && decide (s.status.lastCmd = 0x11#8)))
    && (decide (s.status.fsm = .none) || s.status.frameCmd)
    && (decide (s.status.fsm ≠ .failed) || decide (s.status.state = .error))
    && (decide (s.status.fsmAt = .none) || decide (s.status.fsm = .failed))

/-- The engine stands at a point of a command's pseudocode exactly while Busy, and the command is the one that
`LAST_CMD` names. -/
def State.pointOk (s : State) : Bool :=
  (s.busy == decide (s.int.point ≠ .idle))
    && match s.int.point with
      | .idle => true
      | .entry c => decide (s.status.lastCmd = c.opcode)
      | .scan => decide (s.status.lastCmd = 0x02#8) || decide (s.status.lastCmd = 0x04#8)
      | .tokens => decide (s.status.lastCmd = if s.int.exactMode then 0x03#8 else 0x05#8)
      | .nextBlock | .trailer => decide (s.status.lastCmd = 0x04#8)
      | .magic | .flg | .bd | .hc | .csize | .dictid | .block | .bck | .cck => decide (s.status.lastCmd = 0x05#8)

/-- The invariant. -/
def State.inv (s : State) : Bool := s.cfg.wf && s.dataOk && s.statusOk && s.pointOk

/-- The cursors `ip` and `pos` stay in the input, and what a check has found there is still there (R16). -/
def State.cursorsOk (s : State) : Bool :=
  let n := s.opr.inLen.toNat
  let ip := s.int.ip.toNat
  match s.int.point with
  | .idle | .entry _ | .trailer => true
  | .tokens =>
    decide (ip ≤ s.int.inEnd.toNat)
      && decide (s.int.inEnd.toNat + (if s.int.exactMode then 0 else 4 * s.int.bck.toNat) ≤ n)
  | .magic | .flg | .block | .cck => decide (ip ≤ n)
  | .bd => decide (ip + 3 ≤ n)
  | .hc | .csize | .dictid => decide (ip + descLen s.int.flg + 1 ≤ n)
  | .bck => decide (ip + s.int.blkSize.toNat + 4 ≤ n) && s.int.bck
  | .scan =>
    decide (s.int.pos.toNat ≤ s.int.blkHi.toNat) && decide (s.int.mlimit.toNat ≤ s.int.blkHi.toNat)
      && decide (s.int.blkHi.toNat ≤ n)
  | .nextBlock => decide (s.int.pos.toNat ≤ n)

/-! ### Blocks as data -/

/-- A logical Sequence with a match (00_scope.md glossary). -/
structure Sequence where
  lit : List Byte
  off : BitVec 16
  mlen : Nat
deriving DecidableEq, Repr

/-- The match copy over the output produced so far: `n` times the byte `off` behind the end (R47). -/
def replayMatch (off : Nat) : Nat → List Byte → List Byte
  | 0, out => out
  | n + 1, out => replayMatch off n (out ++ [out.getD (out.length - off) 0#8])

/-- The output after a list of Sequences, from an output produced so far (R143). -/
def replay : List Sequence → List Byte → List Byte
  | [], out => out
  | q :: qs, out => replay qs (replayMatch q.off.toNat q.mlen (out ++ q.lit))

/-- Every Sequence has an encoding, and its offset reaches no further back than the bytes produced (R72, R147), when
`n` bytes have been produced. -/
def legalSeqs : Nat → List Sequence → Bool
  | _, [] => true
  | n, q :: qs =>
    (Instr.seq q.lit q.off q.mlen).wf && decide (q.off.toNat ≤ n + q.lit.length)
      && legalSeqs (n + q.lit.length + q.mlen) qs

/-- A block: the Sequences' encodings, then the terminal sequence's (R63, R87). -/
def blockBytes (qs : List Sequence) (lit : List Byte) (mc : BitVec 4) : List Byte :=
  (qs.map fun q => encode (.seq q.lit q.off q.mlen)).flatten ++ encode (.last lit mc)

/-! ### Frames as data -/

/-- What a frame's header says (R75 to R78). -/
structure Header where
  indep : Bool
  bck : Bool
  csz : Bool
  cck : Bool
  did : Bool
  code : BitVec 3
  /-- the content size field, where `csz` -/
  csize : BitVec 64
  /-- the dictionary ID field, where `did` -/
  dictId : Word
deriving DecidableEq, Repr

/-- The descriptor (R73). -/
def Header.descriptor (h : Header) : List Byte :=
  encode (.flg h.indep h.bck h.csz h.cck false h.did) ++ encode (.bd h.code)
    ++ (if h.csz then encode (.csize h.csize) else []) ++ if h.did then encode (.dictid h.dictId) else []

/-- The whole header; of the parameters only `CK32` matters (R73). -/
def Header.bytes (cfg : Params) (h : Header) : List Byte :=
  encode .magic ++ h.descriptor ++ encode (.hc (headerByte cfg h.descriptor))

/-- A data block: raw bytes, or a block in the format of R63. -/
inductive DataBlock where
  | stored (raw : List Byte)
  | compressed (qs : List Sequence) (lit : List Byte) (mc : BitVec 4)
deriving DecidableEq, Repr

/-- The stored bit (R80). -/
def DataBlock.isStored : DataBlock → Bool
  | .stored _ => true
  | .compressed _ _ _ => false

/-- The payload (R81). -/
def DataBlock.payload : DataBlock → List Byte
  | .stored raw => raw
  | .compressed qs lit mc => blockBytes qs lit mc

/-- The data block as it stands in a frame, its checksum where the header asks for one (R73, R80, R81). -/
def DataBlock.bytes (cfg : Params) (bck : Bool) (b : DataBlock) : List Byte :=
  encode (.bsize b.isStored (BitVec.ofNat 31 b.payload.length)) ++ b.payload
    ++ if bck then encode (.bck (ck32 cfg b.payload)) else []

/-- The output after a data block, from the output of the earlier ones (R172, R173). -/
def DataBlock.output (out : List Byte) : DataBlock → List Byte
  | .stored raw => out ++ raw
  | .compressed qs lit _ => replay qs out ++ lit

/-- A data block that the reader accepts after `n` bytes of output: payload and raw size within the block maximum, and
the Sequences legal; an independent block has none of the earlier output behind it (R171, R173). -/
def DataBlock.legal (h : Header) (out : List Byte) (b : DataBlock) : Bool :=
  decide (b.payload.length ≤ blockMax h.code.toNat)
    && decide ((b.output out).length ≤ out.length + blockMax h.code.toNat)
    && match b with
      | .stored _ => true
      | .compressed qs lit _ =>
        legalSeqs (if h.indep then 0 else out.length) qs && decide (lit.length < 2 ^ 32)

/-- The output after a list of data blocks. -/
def blocksOutput (out : List Byte) : List DataBlock → List Byte
  | [] => out
  | b :: bs => blocksOutput (b.output out) bs

/-- Every data block of a list is legal where it stands. -/
def blocksLegal (h : Header) (out : List Byte) : List DataBlock → Bool
  | [] => true
  | b :: bs => b.legal h out && blocksLegal h (b.output out) bs

/-- A frame: its header and its data blocks. -/
structure Frame where
  head : Header
  blocks : List DataBlock
deriving DecidableEq, Repr

/-- The content: the raw bytes of all data blocks. -/
def Frame.content (f : Frame) : List Byte := blocksOutput [] f.blocks

/-- The frame's bytes (R73). -/
def Frame.bytes (cfg : Params) (f : Frame) : List Byte :=
  f.head.bytes cfg ++ (f.blocks.map fun b => b.bytes cfg f.head.bck).flatten ++ encode .endmark
    ++ if f.head.cck then encode (.cck (ck32 cfg f.content)) else []

/-- A frame that the reader accepts: block maximum code 4 to 7, every block legal, the content size true where it is
there (R76, R177). -/
def Frame.legal (f : Frame) : Bool :=
  decide (4 ≤ f.head.code.toNat) && blocksLegal f.head [] f.blocks
    && (!f.head.csz || decide (f.head.csize.toNat = f.content.length))

/-- The operand `IN[0 .. IN_LEN)` is these bytes. -/
def HasInput (s : State) (bs : List Byte) : Prop := bs.length = s.opr.inLen.toNat ∧ s.inBytes 0 bs.length = bs

end Sys2Proof.Machine
end

