-- ==== Sys2Proof/Certificates/Slice0/Obligations.lean ====
section
/-! DEFINITION. The statements for the provers, in the order of the spec's files.  Each says in its docstring which
rule of spec/ it formalises.  `int.point`, the place in a command's pseudocode, `int.blkStored`, `int.blkSize` and
`int.bstart`, locals of it, are the model's own names (assumption log 4), and so is the split of the header into one
step per field (assumption log 12). -/

open Sys2Proof Sys2Proof.Machine

/-! ### Registers, commands, reset, ABORT (10_state.md, 30_encoding.md, 43_frame.md, 60_exceptions.md,
70_reset_and_hazards.md) -/

/-- R10, R14, R215: while not Busy, a host read of a register gives its value: the registers 1 to 21 are the fields
named here, in this order, and `CMD` and the numbers above 21 read 0; a host write to another register than `CMD` stores
all 32 bits in the seven `RW` registers, 3 to 9, and changes nothing else.  (That this holds before the host has seen
`STATUS` leave Busy is the model's choice: assumption log 21.) -/
def Obligations.RegisterAccess : Prop :=
  ∀ (s : State) (r : Nat) (v : Word), s.busy = false →
    hostAct (.rd r) s = .next { s with rdData := s.readReg r }
    ∧ (List.range' 1 21).map s.readReg =
      [s.status.toWord, w32 s.err.code, s.opr.options, s.opr.inLen, s.opr.outCap, s.opr.expLen, s.opr.pos, s.opr.winLo,
        s.opr.limit, s.res.outLen, s.res.inPos, s.res.boundLo, s.res.boundHi, s.res.matchOff, s.res.matchLen, s.res.desc,
        s.res.csizeLo, s.res.csizeHi, s.res.dictId, s.res.blockIdx, s.res.cksum]
    ∧ (r = 0 ∨ 21 < r → s.readReg r = 0#32)
    ∧ (r ≠ 0 → ∃ t, hostAct (.wr r v) s = .next t ∧ t = { s with opr := t.opr }
        ∧ [t.opr.options, t.opr.inLen, t.opr.outCap, t.opr.expLen, t.opr.pos, t.opr.winLo, t.opr.limit]
          = (List.range' 3 7).map fun k => if k = r then v else s.readReg k)

/-- R11, R27; 93 U4, whose treatment is `refuse`: while Busy a write to `CMD` other than ABORT and a write to any other
register change nothing, `STATUS` reads with `STATE` 1, a number above 21 reads 0 (R10), any read changes nothing in the
engine, and an access to a buffer is refused (assumption log 8). -/
def Obligations.BusyHostAccess : Prop :=
  ∀ (s : State) (r i n : Nat) (v : Word) (bs : List Byte), s.busy = true →
    (r ≠ 0 ∨ v.toNat % 256 ≠ 0x1F → hostAct (.wr r v) s = .next s)
    ∧ (v.toNat % 256 ≠ 0x1F → hostAct (.start v) s = .next s)
    ∧ hostAct (.rd 1) s = .next { s with rdData := s.status.toWord }
    ∧ s.status.toWord.toNat % 4 = 1
    ∧ (21 < r → hostAct (.rd r) s = .next { s with rdData := 0#32 })
    ∧ (∃ t, hostAct (.rd r) s = .next t ∧ t = { s with rdData := t.rdData, fresh := t.fresh })
    ∧ hostAct (.wrIn i bs) s = .refused (.busyBufferAccess .inBuf)
    ∧ hostAct (.wrOut i bs) s = .refused (.busyBufferAccess .outBuf)
    ∧ hostAct (.rdOut i n) s = .refused (.busyBufferAccess .outBuf)

/-- R40, R41, R48: while not Busy the host's write to a buffer puts each byte at its index and changes no other byte
and nothing else, and a read gives the bytes.  (That
this holds before the host has seen `STATUS` leave Busy is the model's choice: assumption log 21.) -/
def Obligations.HostBufferAccess : Prop :=
  ∀ (s : State) (i n : Nat) (bs : List Byte), s.busy = false →
    (i + bs.length ≤ 2 ^ 32 →
      (∃ t, hostAct (.wrIn i bs) s = .next t ∧ t = { s with inb := t.inb }
        ∧ t.inBytes i bs.length = bs ∧ ∀ a, a < i ∨ i + bs.length ≤ a → t.inb.read a = s.inb.read a)
      ∧ ∃ t, hostAct (.wrOut i bs) s = .next t ∧ t = { s with outb := t.outb }
        ∧ t.outBytes i bs.length = bs ∧ ∀ a, a < i ∨ i + bs.length ≤ a → t.outb.read a = s.outb.read a)
    ∧ (i + n ≤ 2 ^ 32 →
      hostAct (.rdIn i n) s = .next { s with rdBytes := s.inBytes i n }
      ∧ hostAct (.rdOut i n) s = .next { s with rdBytes := s.outBytes i n })

/-- R60, R62: the opcode map. The low byte of a write to `CMD` names the command that runs; a reserved opcode written
to `CMD` while not Busy fails a command with `IllegalCommand` and touches nothing else, whether or not the host waits.
-/
def Obligations.OpcodeMapRunsCommands : Prop :=
  ∀ (s : State) (v : Word),
    (v.toNat % 256 = 0x01 → hostAct (.wr 0 v) s = exec .cbound s)
    ∧ (v.toNat % 256 = 0x02 → hostAct (.wr 0 v) s = exec .cblock s)
    ∧ (v.toNat % 256 = 0x03 → hostAct (.wr 0 v) s = exec .dblock s)
    ∧ (v.toNat % 256 = 0x04 → hostAct (.wr 0 v) s = exec .cframe s)
    ∧ (v.toNat % 256 = 0x05 → hostAct (.wr 0 v) s = exec .dframe s)
    ∧ (v.toNat % 256 = 0x10 → hostAct (.wr 0 v) s = exec .mfclr s)
    ∧ (v.toNat % 256 = 0x11 → hostAct (.wr 0 v) s = exec .mffind s)
    ∧ (v.toNat % 256 = 0x12 → hostAct (.wr 0 v) s = exec .mfins s)
    ∧ (v.toNat % 256 = 0x1F → hostAct (.wr 0 v) s = exec .abort s)
    ∧ (s.busy = false → v.toNat % 256 ∉ [0x01, 0x02, 0x03, 0x04, 0x05, 0x10, 0x11, 0x12, 0x1F] →
      ∃ t, hostAct (.wr 0 v) s = .next t ∧ hostAct (.start v) s = .next t
        ∧ FailedUntouched { state := .error, lastCmd := v.setWidth 8 } .illegalCommand s t)

/-- R12, R200: the fields of the `STATUS` word and the numbers of their values, and the error codes that `ERR` reads.  (That
`ERR` reads so before the host has seen `STATUS` leave Busy is the model's choice: assumption log 21.) -/
def Obligations.StatusWordAndErrorCodes : Prop :=
  (∀ st : Status,
    st.toWord.toNat % 2 ^ 2 = st.state.code ∧ st.toWord.getLsbD 2 = st.stored ∧ st.toWord.getLsbD 3 = st.found
    ∧ st.toWord.toNat / 2 ^ 4 % 2 ^ 3 = st.fsm.code ∧ st.toWord.toNat / 2 ^ 7 % 2 ^ 3 = st.fsmAt.code
    ∧ st.toWord.toNat / 2 ^ 10 % 2 ^ 6 = 0 ∧ st.toWord.toNat / 2 ^ 16 % 2 ^ 8 = st.lastCmd.toNat
    ∧ st.toWord.toNat / 2 ^ 24 = 0)
  ∧ [RunState.idle, .busy, .done, .error].map RunState.code = [0, 1, 2, 3]
  ∧ [Fsm.none, .header, .blocks, .endMark, .finished, .failed].map Fsm.code = [0, 1, 2, 3, 4, 5]
  ∧ [ErrCode.none, .insufficientOutputSpace, .malformedSequence, .unexpectedEndOfInput, .outputSizeMismatch,
      .invalidMagicNumber, .headerChecksumMismatch, .blockChecksumMismatch, .contentChecksumMismatch, .formatViolation,
      .illegalCommand].map ErrCode.code = [0, 1, 2, 3, 4, 5, 6, 7, 8, 9, 10]
  ∧ ∀ s : State, s.busy = false → hostAct (.rd 2) s = .next { s with rdData := w32 s.err.code }

/-- R230 with the table of R25: the reset event, at any time, makes every host-visible register 0 and every `valid` bit
0, drops a running command, and leaves no byte of a buffer with a specified content; `State.reset` is such a state, with
no host action pending.  That the event keeps the parameters and the host's side is the model's choice (assumption
log 18), and so is that the host's actions are a queue (log 9). -/
def Obligations.ResetClearsEverything : Prop :=
  (∀ s : State, ∃ t, hostAct .reset s = .next t
    ∧ (∀ r, t.readReg r = 0#32) ∧ t.busy = false ∧ t.err = .none ∧ (∀ h, t.ht.get h = none)
    ∧ (∀ a, t.inb.read a = none ∧ t.outb.read a = none)
    ∧ t.cfg = s.cfg ∧ SameHost s t)
  ∧ (∀ r, State.reset.readReg r = 0#32) ∧ State.reset.busy = false ∧ (∀ h, State.reset.ht.get h = none)
  ∧ (∀ a, State.reset.inb.read a = none ∧ State.reset.outb.read a = none)
  ∧ State.reset.host = []

/-- R190: ABORT, in every state, clears every `valid` bit, every result register, `ERR` and `STATUS`, but for
`LAST_CMD`, and stops a running command; operand registers and `IN` keep their values.  That `OUT`
is unchanged when no command ran, and from `OUT_CAP` on in every case, is the model's reading (assumption log 17, with
R28). -/
def Obligations.AbortAbandonsSession : Prop :=
  ∀ s : State, ∃ t, exec .abort s = .next t
    ∧ (∀ h, t.ht.get h = none) ∧ t.res = {} ∧ t.err = .none
    ∧ t.status = { state := .idle, lastCmd := 0x1F#8 } ∧ t.busy = false
    ∧ Kept s t
    ∧ (s.busy = false → SameOut s t)
    ∧ ∀ a, s.opr.outCap.toNat ≤ a → t.outb.read a = s.outb.read a

/-! ### The match finder (40_match_finder.md) -/

/-- R102: MFCLR leaves no valid entry, and changes nothing else but the status; its example: after it, MFFIND at any
position reports no match.  It writes no byte of `OUT` (R42), but R29 leaves those below `OUT_CAP` unspecified. -/
def Obligations.MfclrClearsTable : Prop :=
  ∀ s : State, s.busy = false → ∃ t, exec .mfclr s = .next t
    ∧ (∀ h, t.ht.get h = none)
    ∧ t.status = { state := .done, lastCmd := 0x10#8 } ∧ t.err = .none ∧ t.res = {} ∧ Unwritten 0 0 s t ∧ Kept s t
    ∧ (s.opr.pos.toNat + 4 ≤ s.opr.limit.toNat → s.opr.limit.toNat ≤ s.opr.inLen.toNat → ∃ u, exec .mffind t = .next u
      ∧ u.status = { state := .done, lastCmd := 0x11#8 } ∧ u.res = {})

/-- R101: the hash of four bytes, in unbounded arithmetic, and its range, for every legal choice of the parameters;
and the two defaults. -/
def Obligations.HashFormula : Prop :=
  ∀ (p : Params) (b0 b1 b2 b3 : Byte), p.wf = true →
    hashWord p (u32le [b0, b1, b2, b3])
      = (b0.toNat + 2 ^ 8 * b1.toNat + 2 ^ 16 * b2.toNat + 2 ^ 24 * b3.toNat) * p.hashMult.toNat % 2 ^ 32
          / 2 ^ (32 - p.hashLog)
    ∧ hashWord p (u32le [b0, b1, b2, b3]) < 2 ^ p.hashLog
    ∧ State.reset.cfg.hashMult.toNat = 2654435761 ∧ State.reset.cfg.hashLog = 12

/-- R105: MFINS sets the one entry at the hash of the four bytes at `POS` and keeps every other; fewer than four bytes
there are an `IllegalCommand` that touches nothing.  MFINS writes no byte of `OUT`
(R42), but R29 leaves those below `OUT_CAP` unspecified when it ends. -/
def Obligations.MfinsInsertsPosition : Prop :=
  ∀ s : State, s.busy = false →
    (s.opr.pos.toNat + 4 ≤ s.opr.inLen.toNat → ∃ t, exec .mfins s = .next t
      ∧ (∀ h, t.ht.get h =
          if h = hashWord s.cfg (u32le (s.inBytes s.opr.pos.toNat 4)) then some s.opr.pos else s.ht.get h)
      ∧ t.status = { state := .done, lastCmd := 0x12#8 } ∧ t.err = .none ∧ t.res = {} ∧ Unwritten 0 0 s t ∧ Kept s t)
    ∧ (s.opr.inLen.toNat < s.opr.pos.toNat + 4 → ∃ t, exec .mfins s = .next t
      ∧ FailedUntouched { state := .error, lastCmd := 0x12#8 } .illegalCommand s t)

/-- R104: a lookup returns a match exactly when the table's candidate passes the five acceptance tests, and then the
longest one that the candidate gives below `limit`. -/
def Obligations.LookupIsLongestAcceptedMatch : Prop :=
  ∀ (s : State) (p winLo limit off len : Nat), p + 4 ≤ limit → limit ≤ s.opr.inLen.toNat →
    (s.mfLookup p winLo limit = some (off, len) ↔
      ∃ c : Word, s.ht.get (s.hashAt p) = some c ∧ c.toNat + off = p
        ∧ 1 ≤ off ∧ off ≤ 65535 ∧ off + winLo ≤ p ∧ 4 ≤ len ∧ p + len ≤ limit
        ∧ (∀ i, i < len → s.inByte (p + i) = s.inByte (p - off + i))
        ∧ (p + len < limit → s.inByte (p + len) ≠ s.inByte (p - off + len)))

/-- R106: MFFIND reports what the lookup at `POS` finds in the table as it was, then enters `POS` whether or not there
was a match; a failed operand check is an `IllegalCommand` that looks up and inserts nothing.  It writes no byte
of `OUT` (R42), but R29 leaves those below `OUT_CAP` unspecified when it ends without error. -/
def Obligations.MffindLooksUpThenInserts : Prop :=
  ∀ s : State, s.busy = false →
    (s.opr.pos.toNat + 4 ≤ s.opr.limit.toNat → s.opr.limit.toNat ≤ s.opr.inLen.toNat → ∃ t, exec .mffind s = .next t
      ∧ (∀ h, t.ht.get h =
          if h = hashWord s.cfg (u32le (s.inBytes s.opr.pos.toNat 4)) then some s.opr.pos else s.ht.get h)
      ∧ (s.mfLookup s.opr.pos.toNat s.opr.winLo.toNat s.opr.limit.toNat = none →
          t.status = { state := .done, lastCmd := 0x11#8 } ∧ t.res = {})
      ∧ (∀ off len, s.mfLookup s.opr.pos.toNat s.opr.winLo.toNat s.opr.limit.toNat = some (off, len) →
          t.status = { state := .done, found := true, lastCmd := 0x11#8 }
          ∧ t.res = { matchOff := t.res.matchOff, matchLen := t.res.matchLen }
          ∧ t.res.matchOff.toNat = off ∧ t.res.matchLen.toNat = len)
      ∧ t.err = .none ∧ Unwritten 0 0 s t ∧ Kept s t)
    ∧ (s.opr.limit.toNat < s.opr.pos.toNat + 4 ∨ s.opr.inLen.toNat < s.opr.limit.toNat → ∃ t, exec .mffind s = .next t
      ∧ FailedUntouched { state := .error, lastCmd := 0x11#8 } .illegalCommand s t)

/-- R110: whatever the table holds, and whatever bytes without a specified content read as (`free`), replaying a match
that a lookup returns, with the byte-serial copy, over an output equal to `IN[0 .. p)` reproduces `IN[p .. p +
length)`. -/
def Obligations.FoundMatchReplays : Prop :=
  ∀ (s : State) (free : Nat → Byte) (p winLo limit off len : Nat) (m : Memory), p + 4 ≤ limit → limit ≤ s.opr.inLen.toNat →
    s.mfLookup p winLo limit = some (off, len) →
    (∀ i, i < p → outByteOf free m i = s.inByte i) →
    ∀ i, i < p + len → outByteOf free (copyBack free off len p m) i = s.inByte i

/-- R47: the match copy gives the pattern of the `off` bytes behind the write position, repeated, and changes no other
byte. -/
def Obligations.MatchCopyRepeatsPattern : Prop :=
  ∀ (free : Nat → Byte) (off n op : Nat) (m : Memory), 1 ≤ off → off ≤ op →
    (∀ i, i < n → outByteOf free (copyBack free off n op m) (op + i) = outByteOf free m (op - off + i % off))
    ∧ ∀ a, a < op ∨ op + n ≤ a → (copyBack free off n op m).read a = m.read a

/-! ### The block encoder (41_block_encoder.md) -/

/-- R120: CBOUND gives the bound as a 64-bit result, and never fails. It writes no byte of `OUT` (R42), but R29 leaves
those below `OUT_CAP` unspecified. -/
def Obligations.CboundGivesBound : Prop :=
  ∀ s : State, s.busy = false → ∃ t, exec .cbound s = .next t
    ∧ t.res.boundLo.toNat + 2 ^ 32 * t.res.boundHi.toNat = s.opr.inLen.toNat + s.opr.inLen.toNat / 255 + 16
    ∧ t.res = { boundLo := t.res.boundLo, boundHi := t.res.boundHi }
    ∧ t.status = { state := .done, lastCmd := 0x01#8 } ∧ t.err = .none ∧ t.ht = s.ht ∧ Unwritten 0 0 s t ∧ Kept s t

/-- R122: CBLOCK refuses every `OUT` below the worst-case bound before it writes a byte; above it, no write falls
outside `OUT`. -/
def Obligations.CblockChecksSpaceFirst : Prop :=
  ∀ s : State, s.cfg.wf = true → s.busy = false →
    (s.opr.outCap.toNat < s.opr.inLen.toNat + s.opr.inLen.toNat / 255 + 16 → ∃ t, exec .cblock s = .next t
      ∧ FailedUntouched { state := .error, lastCmd := 0x02#8 } .insufficientOutputSpace s t)
    ∧ (s.opr.inLen.toNat + s.opr.inLen.toNat / 255 + 16 ≤ s.opr.outCap.toNat → ∃ t, exec .cblock s = .next t
      ∧ t.err = .none ∧ ∀ a, s.opr.outCap.toNat ≤ a → t.outb.read a = s.outb.read a)

/-- R121 with R126, R127 (a), R128: with space enough CBLOCK ends Done, its output the raw bytes, as long as the input,
or else a token stream shorter than it; an input shorter than `MFLIMIT` is stored and leaves the table clear; no other
result, operand or byte of `IN` changes. -/
def Obligations.CblockEndsDone : Prop :=
  ∀ s : State, s.cfg.wf = true → s.busy = false →
    s.opr.inLen.toNat + s.opr.inLen.toNat / 255 + 16 ≤ s.opr.outCap.toNat → ∃ t, exec .cblock s = .next t
      ∧ t.status = { state := .done, stored := t.status.stored, lastCmd := 0x02#8 } ∧ t.err = .none
      ∧ t.res = { outLen := t.res.outLen, inPos := s.opr.inLen }
      ∧ (t.status.stored = true → t.res.outLen = s.opr.inLen
          ∧ t.outBytes 0 s.opr.inLen.toNat = s.inBytes 0 s.opr.inLen.toNat)
      ∧ (t.status.stored = false → t.res.outLen.toNat + s.cfg.storedOverhead < s.opr.inLen.toNat)
      ∧ (s.opr.inLen.toNat < s.cfg.mfLimit → t.status.stored = true ∧ ∀ h, t.ht.get h = none)
      ∧ Kept s t ∧ Unwritten 0 t.res.outLen.toNat s t

/-- R124, R125: a token stream that CBLOCK writes is a block of legal Sequences that covers the input exactly; its
terminal sequence has match code 0 and, when the block has a match, holds the last five bytes at least; and no match
starts later than `MFLIMIT` bytes before the end. -/
def Obligations.CblockEmitsLegalBlock : Prop :=
  ∀ s t : State, s.cfg.wf = true → s.busy = false → exec .cblock s = .next t → t.err = .none →
    t.status.stored = false →
    ∃ qs lit, t.outBytes 0 t.res.outLen.toNat = blockBytes qs lit 0#4 ∧ legalSeqs 0 qs = true
      ∧ replay qs [] ++ lit = s.inBytes 0 s.opr.inLen.toNat ∧ (qs ≠ [] → 5 ≤ lit.length)
      ∧ ∀ pre q post, qs = pre ++ q :: post →
          (replay pre []).length + q.lit.length + s.cfg.mfLimit ≤ s.opr.inLen.toNat

/-- R127 (b): DBLOCK on a token stream that CBLOCK wrote, with the raw length as `EXP_LEN`, ends Done and gives the
input back. -/
def Obligations.BlockRoundTrip : Prop :=
  ∀ s t u : State, s.cfg.wf = true → s.busy = false → exec .cblock s = .next t → t.err = .none →
    t.status.stored = false →
    u.busy = false → HasInput u (t.outBytes 0 t.res.outLen.toNat) → u.opr.expLen = s.opr.inLen →
    u.opr.expLen.toNat ≤ u.opr.outCap.toNat →
    ∃ v, exec .dblock u = .next v ∧ v.status.state = .done ∧ v.err = .none ∧ v.res.outLen = s.opr.inLen
      ∧ v.outBytes 0 s.opr.inLen.toNat = s.inBytes 0 s.opr.inLen.toNat

/-- R102, R121, R123, R179, R182, R185, R186: how regions are opened.  CBLOCK clears the table and opens the whole
input.  CFRAME, with its space check passed, takes the options, writes the header and clears the table, whatever the
options are; then it opens, while raw bytes remain, the next block of at most the block maximum behind room for its size
word, its window the block alone and the table cleared again when blocks are independent, the frame so far and the table
kept when they are linked; with no raw byte left it goes on to the trailer. -/
def Obligations.RegionsAreOpened : Prop :=
  ∀ s : State, s.host = [] → s.busy = true →
    let n := s.opr.inLen.toNat
    let lo := s.int.pos.toNat
    let opened := fun (lo hi winLo ob : Nat) (t : State) =>
      t = { s with ht := t.ht, int := { s.int with
          point := .scan, blkLo := w32 lo, blkHi := w32 hi, winLo := w32 winLo, ob := w32 ob, pos := w32 lo
          anchor := w32 lo, op := w32 ob, mlimit := t.int.mlimit } }
        ∧ (5 ≤ hi → t.int.mlimit.toNat = hi - 5)
    (s.int.point = .entry .cblock → n + n / 255 + 16 ≤ s.opr.outCap.toNat → ∃ t, step s = .next t
      ∧ opened 0 n 0 0 t ∧ ∀ h, t.ht.get h = none)
    ∧ (s.int.point = .entry .cframe → s.cfg.wf = true →
        let bit := fun i : Nat => s.opr.options.toNat / 2 ^ i % 2
        let bmax := 2 ^ (8 + 2 * s.cfg.blockMaxCode)
        let flg := 64 + 32 * bit 0 + 16 * bit 1 + 8 * bit 3 + 4 * bit 2
        let bd := 16 * s.cfg.blockMaxCode
        let descriptor : List Byte := [BitVec.ofNat 8 flg, BitVec.ofNat 8 bd] ++ if bit 3 = 1 then leBytes 8 n else []
        let hc := (ck32 s.cfg descriptor).toNat / 2 ^ 8 % 2 ^ 8
        let header := [0x04#8, 0x22#8, 0x4D#8, 0x18#8] ++ descriptor ++ [BitVec.ofNat 8 hc]
        frameBound bmax n (decide (bit 1 = 1)) (decide (bit 2 = 1)) (decide (bit 3 = 1)) ≤ s.opr.outCap.toNat →
        ∃ t, step s = .next t
          ∧ (∀ h, t.ht.get h = none)
          ∧ t = { s with
              ht := t.ht, outb := t.outb, status := { s.status with fsm := .blocks }
              res := { s.res with
                blockIdx := 0#32, desc := w32 (flg + 2 ^ 8 * bd + 2 ^ 16 * hc)
                csizeLo := if bit 3 = 1 then s.opr.inLen else s.res.csizeLo
                csizeHi := if bit 3 = 1 then 0#32 else s.res.csizeHi }
              int := { s.int with
                point := .nextBlock, indep := decide (bit 0 = 1), bck := decide (bit 1 = 1), cck := decide (bit 2 = 1)
                csz := decide (bit 3 = 1), did := false, bmax := w32 bmax, pos := 0#32, op := w32 header.length, cc := []
                flg := BitVec.ofNat 8 flg, bd := BitVec.ofNat 8 bd } }
          ∧ t.outBytes 0 header.length = header
          ∧ ∀ a, header.length ≤ a → t.outb.read a = s.outb.read a)
    ∧ (s.int.point = .nextBlock → lo < n → ∃ t, step s = .next t
      ∧ opened lo (min n (lo + s.int.bmax.toNat)) (if s.int.indep then lo else 0) (s.int.op.toNat + 4) t
      ∧ (s.int.indep = true → ∀ h, t.ht.get h = none) ∧ (s.int.indep = false → t.ht = s.ht))
    ∧ (s.int.point = .nextBlock → n ≤ lo → step s = .next { s with
        status := { s.status with fsm := .endMark }, int := { s.int with point := .trailer } })

/-- R123 with R106, R107, R109: at the head of the loop of `EncodeRegion`, while `pos + MFLIMIT <= blk_hi`, a step looks
up `pos` and then enters it, and no other position, in the table.  On a miss its byte joins the pending literals.  On a
hit the match, extended backward as far as R107 says, is written at `op` as one SEQ with the pending literals, and
passed.  Nothing else changes but MF's own registers `h`, `cand`, `mlen`. -/
def Obligations.ScanAsksTheMatchFinder : Prop :=
  ∀ s : State, s.host = [] → s.busy = true → s.int.point = .scan →
    s.int.pos.toNat + s.cfg.mfLimit ≤ s.int.blkHi.toNat →
    let p := s.int.pos.toNat
    let anchor := s.int.anchor.toNat
    let winLo := s.int.winLo.toNat
    let found := s.mfLookup p winLo s.int.mlimit.toNat
    ∃ t, step s = .next t
      ∧ (∀ h, t.ht.get h = if h = hashWord s.cfg (u32le (s.inBytes p 4)) then some s.int.pos else s.ht.get h)
      ∧ (found = none → t = { s with ht := t.ht, int := { s.int with
          pos := w32 (p + 1), h := t.int.h, cand := t.int.cand, mlen := t.int.mlen } })
      ∧ ∀ off len, found = some (off, len) → ∃ k : Nat,
          let start := p - k
          let e := encode (.seq (s.inBytes anchor (start - anchor)) (BitVec.ofNat 16 off) (len + k))
          (s.cfg.backwardExtend = false → k = 0)
          ∧ (s.cfg.backwardExtend = true → k ≤ p - anchor ∧ k ≤ p - off - winLo
            ∧ (∀ j, j < k → s.inByte (p - 1 - j) = s.inByte (p - off - 1 - j))
            ∧ (anchor < start → winLo < p - off - k → s.inByte (start - 1) ≠ s.inByte (p - off - k - 1)))
          ∧ t = { s with ht := t.ht, outb := t.outb, int := { s.int with
              pos := w32 (p + len), anchor := w32 (p + len), op := w32 (s.int.op.toNat + e.length)
              h := t.int.h, cand := t.int.cand, mlen := t.int.mlen } }
          ∧ t.outBytes s.int.op.toNat e.length = e
          ∧ ∀ a, a < s.int.op.toNat ∨ s.int.op.toNat + e.length ≤ a → t.outb.read a = s.outb.read a

/-- R123, R125 (b), R126, R121, R179: with fewer than `MFLIMIT` bytes left nothing is looked up and nothing entered; the
pending literals end the token stream as its LAST.  The block is stored exactly when that stream, with
`STORED_OVERHEAD`, is not shorter than the raw bytes.  CBLOCK then ends Done; CFRAME writes the block's size word before
its payload, and its checksum after it, feeds the content checksum, counts the block, and goes on.  The premises on room
are what R88 and R181 guarantee. -/
def Obligations.RegionsAreClosed : Prop :=
  ∀ s : State, s.host = [] → s.busy = true → s.int.point = .scan →
    s.int.blkHi.toNat < s.int.pos.toNat + s.cfg.mfLimit →
    let ob := s.int.ob.toNat
    let op := s.int.op.toNat
    let n := s.int.blkHi.toNat - s.int.blkLo.toNat
    let raw := s.inBytes s.int.blkLo.toNat n
    let e := encode (.last (s.inBytes s.int.anchor.toNat (s.int.blkHi.toNat - s.int.anchor.toNat)) 0#4)
    let stream := s.outBytes ob (op - ob) ++ e
    let stored := decide (n ≤ stream.length + s.cfg.storedOverhead)
    let payload := if stored then raw else stream
    ob ≤ op → op + e.length ≤ s.opr.outCap.toNat → ob + n + 4 ≤ s.opr.outCap.toNat → ∃ t, step s = .next t
      ∧ Kept s t ∧ t.ht = s.ht
      ∧ (s.status.lastCmd = 0x02#8 → ob = 0 → s.int.blkLo = 0#32 → s.int.blkHi = s.opr.inLen →
          t.status = { s.status with state := .done, stored := stored } ∧ t.err = s.err
          ∧ t.res = { s.res with outLen := w32 payload.length, inPos := s.opr.inLen }
          ∧ t.outBytes 0 payload.length = payload)
      ∧ (s.status.lastCmd = 0x04#8 → 4 ≤ ob → payload.length < 2 ^ 31 → ob + payload.length + 4 ≤ s.opr.outCap.toNat →
          let sum := if s.int.bck then encode (.bck (ck32 s.cfg payload)) else []
          let block := encode (.bsize stored (BitVec.ofNat 31 payload.length)) ++ payload ++ sum
          t = { s with outb := t.outb, res := { s.res with blockIdx := s.res.blockIdx + 1#32 }, int := { s.int with
              op := w32 (ob - 4 + block.length), cc := if s.int.cck then s.int.cc ++ raw else s.int.cc
              pos := s.int.blkHi, point := .nextBlock } }
          ∧ t.outBytes (ob - 4) block.length = block
          ∧ ∀ a, a < ob - 4 ∨ s.opr.outCap.toNat ≤ a → t.outb.read a = s.outb.read a)

/-! ### The block decoder (42_block_decoder.md) -/

/-- R140, R143, R152: DBLOCK on the bytes of any block of legal Sequences whose replay is exactly `EXP_LEN` bytes long
ends Done with that replay as output, whatever its last bytes are and whatever the match code of its terminal
sequence. -/
def Obligations.DblockDecodesLegalBlock : Prop :=
  ∀ (s : State) (qs : List Sequence) (lit : List Byte) (mc : BitVec 4), s.busy = false →
    HasInput s (blockBytes qs lit mc) → legalSeqs 0 qs = true → (replay qs [] ++ lit).length = s.opr.expLen.toNat →
    s.opr.expLen.toNat ≤ s.opr.outCap.toNat →
    ∃ t, exec .dblock s = .next t
      ∧ Ended { state := .done, lastCmd := 0x03#8 } .none {} 0 s.opr.expLen.toNat s.opr.inLen.toNat s t
      ∧ t.outBytes 0 s.opr.expLen.toNat = replay qs [] ++ lit

/-- R143, R147, R150: DBLOCK ends Done only on the bytes of a block of legal Sequences with a replay of exactly
`EXP_LEN` bytes. -/
def Obligations.DblockDoneOnlyOnLegalBlock : Prop :=
  ∀ s t : State, s.busy = false → exec .dblock s = .next t → t.status.state = .done →
    ∃ qs lit mc, HasInput s (blockBytes qs lit mc) ∧ legalSeqs 0 qs = true
      ∧ (replay qs [] ++ lit).length = s.opr.expLen.toNat ∧ t.outBytes 0 s.opr.expLen.toNat = replay qs [] ++ lit

/-- R153 with R42, R140: for every input DBLOCK ends, Done or with one of its three errors (with `OUT_CAP` below
`EXP_LEN` it is an `OutputSizeMismatch` before any write: R151); its output is within
`EXP_LEN` and `OUT_CAP`, its input within `IN_LEN`; the hash table, and every byte of `OUT` from `OUT_CAP` on, are as
before, and those between `OUT_LEN` and `OUT_CAP` are as before or, by R29, unspecified. -/
def Obligations.DblockIsSafe : Prop :=
  ∀ s : State, s.busy = false → ∃ t, exec .dblock s = .next t
    ∧ (t.status = { state := .done, lastCmd := 0x03#8 } ∧ t.err = .none
      ∨ t.status = { state := .error, lastCmd := 0x03#8 }
        ∧ t.err ∈ [.outputSizeMismatch, .malformedSequence, .unexpectedEndOfInput])
    ∧ t.res = { outLen := t.res.outLen, inPos := t.res.inPos }
    ∧ t.res.outLen.toNat ≤ s.opr.expLen.toNat ∧ t.res.outLen.toNat ≤ s.opr.outCap.toNat
    ∧ t.res.inPos.toNat ≤ s.opr.inLen.toNat
    ∧ t.ht = s.ht ∧ Kept s t ∧ Unwritten 0 t.res.outLen.toNat s t
    ∧ (s.opr.outCap.toNat < s.opr.expLen.toNat →
        FailedUntouched { state := .error, lastCmd := 0x03#8 } .outputSizeMismatch s t)

/-- R154: two machines, with whatever parameters, table, old output and earlier commands, give the same outcome for the
same input bytes, `EXP_LEN` and `OUT_CAP`. -/
def Obligations.DblockIsDeterminedByOperands : Prop :=
  ∀ s s' t t' : State, s.busy = false → s'.busy = false →
    s'.opr.inLen = s.opr.inLen → s'.opr.expLen = s.opr.expLen → s'.opr.outCap = s.opr.outCap →
    s'.inBytes 0 s.opr.inLen.toNat = s.inBytes 0 s.opr.inLen.toNat →
    exec .dblock s = .next t → exec .dblock s' = .next t' →
    t'.status = t.status ∧ t'.err = t.err ∧ t'.res = t.res
      ∧ t'.outBytes 0 t.res.outLen.toNat = t.outBytes 0 t.res.outLen.toNat

/-- R143 steps 1 to 7 (R146, R149): a SEQ whose offset is legal and whose output passes no limit copies its literals,
then its match byte by byte, moves `ip` and `op`, leaves its fields in the registers that hold them, and changes
nothing else. -/
def Obligations.SeqCopiesLiteralsAndMatch : Prop :=
  ∀ (s : State) (lit : List Byte) (off : BitVec 16) (mlen p : Nat), (Instr.seq lit off mlen).wf = true →
    p = s.int.op.toNat + lit.length → s.int.ip.toNat + (Instr.seq lit off mlen).size ≤ s.opr.inLen.toNat →
    off.toNat ≤ p - s.int.histLo.toNat → Room (p + mlen) s →
    ∃ t, exec (.seq lit off mlen) s = .next t
      ∧ t = { s with outb := t.outb, int := { s.int with
          ip := w32 (s.int.ip.toNat + (Instr.seq lit off mlen).size), op := w32 (p + mlen)
          t := (encode (.seq lit off mlen)).headD 0#8
          litLen := w32 lit.length, matchLen := w32 mlen, off := off } }
      ∧ t.outBytes s.int.op.toNat lit.length = lit
      ∧ (∀ i, i < mlen → t.outByte (p + i) = t.outByte (p + i - off.toNat))
      ∧ ∀ a, a < s.int.op.toNat ∨ p + mlen ≤ a → t.outb.read a = s.outb.read a

/-- R147, the offset's checks (and R72): a SEQ whose offset is 0, or reaches behind `hist_lo`, raises
`MalformedSequence` just after its offset, its literals copied and nothing behind them written. -/
def Obligations.SeqRefusesBadOffset : Prop :=
  ∀ (s : State) (lit : List Byte) (off : BitVec 16) (mlen p : Nat), lit.length < 2 ^ 32 →
    p = s.int.op.toNat + lit.length → s.int.ip.toNat + (Instr.seq lit off mlen).size ≤ s.opr.inLen.toNat →
    Room p s → off = 0#16 ∨ p - s.int.histLo.toNat < off.toNat →
    ∃ t, exec (.seq lit off mlen) s = .next t
      ∧ Raised .malformedSequence s.res s.int.op.toNat p (s.int.ip.toNat + (1 + extLen lit.length) + lit.length + 2) s t
      ∧ t.outBytes s.int.op.toNat lit.length = lit

/-- R142: a copy that would pass `lim_blk` raises `MalformedSequence`, one that would only pass `lim_buf`
`InsufficientOutputSpace`; before a literal copy, of a SEQ or of a LAST, nothing is written, before a match copy the
literals are.  (A byte of `OUT` that is not written reads as before or, from `OUT_LEN` up to `OUT_CAP`, is unspecified:
R29.) -/
def Obligations.CopiesStopAtTheLimits : Prop :=
  ∀ (s : State) (lit : List Byte) (off : BitVec 16) (mlen p : Nat) (mc : BitVec 4) (e : ErrCode),
    p = s.int.op.toNat + lit.length →
    let fails := fun n : Nat =>
      s.int.limBlk.toNat < n ∧ e = .malformedSequence
        ∨ n ≤ s.int.limBlk.toNat ∧ (∃ b, s.int.limBuf = some b ∧ b.toNat < n) ∧ e = .insufficientOutputSpace
    ((Instr.last lit mc).wf = true → s.int.ip.toNat + (Instr.last lit mc).size ≤ s.opr.inLen.toNat → fails p →
      ∃ t, exec (.last lit mc) s = .next t
        ∧ Raised e s.res s.int.op.toNat s.int.op.toNat (s.int.ip.toNat + (1 + extLen lit.length)) s t)
    ∧ ((Instr.seq lit off mlen).wf = true → s.int.ip.toNat + (Instr.seq lit off mlen).size ≤ s.opr.inLen.toNat →
      (fails p → ∃ t, exec (.seq lit off mlen) s = .next t
        ∧ Raised e s.res s.int.op.toNat s.int.op.toNat (s.int.ip.toNat + (1 + extLen lit.length)) s t)
      ∧ (Room p s → off.toNat ≤ p - s.int.histLo.toNat → fails (p + mlen) → ∃ t, exec (.seq lit off mlen) s = .next t
        ∧ Raised e s.res s.int.op.toNat p (s.int.ip.toNat + (Instr.seq lit off mlen).size) s t
        ∧ t.outBytes s.int.op.toNat lit.length = lit))

/-- R147, the terminal test in exact mode (R140, R151): a LAST that completes the expected length ends DBLOCK Done; one
that falls short is an `OutputSizeMismatch`.  Its literals are copied in both cases and its match code is ignored. -/
def Obligations.LastEndsExactMode : Prop :=
  ∀ (s : State) (lit : List Byte) (mc : BitVec 4) (p : Nat), (Instr.last lit mc).wf = true →
    s.int.exactMode = true → p = s.int.op.toNat + lit.length →
    s.int.ip.toNat + (Instr.last lit mc).size ≤ s.opr.inLen.toNat → Room p s →
    (p = s.int.limBlk.toNat → ∃ t, exec (.last lit mc) s = .next t
      ∧ Ended { s.status with state := .done } s.err s.res s.int.op.toNat p
          (s.int.ip.toNat + (Instr.last lit mc).size) s t
      ∧ t.outBytes s.int.op.toNat lit.length = lit)
    ∧ (p < s.int.limBlk.toNat → ∃ t, exec (.last lit mc) s = .next t
      ∧ Raised .outputSizeMismatch s.res s.int.op.toNat p (s.int.ip.toNat + (Instr.last lit mc).size) s t
      ∧ t.outBytes s.int.op.toNat lit.length = lit)

/-- R141, R162 step B5 (R174): in bounded mode a LAST ends the data block, whatever its length below the limits: `ip`
passes the block's checksum, the block's output is fed to the content checksum where there is one, and the block is
counted. -/
def Obligations.LastEndsDataBlock : Prop :=
  ∀ (s : State) (lit : List Byte) (mc : BitVec 4) (p : Nat), (Instr.last lit mc).wf = true →
    s.int.exactMode = false → p = s.int.op.toNat + lit.length →
    s.int.ip.toNat + (Instr.last lit mc).size + 4 * s.int.bck.toNat ≤ s.opr.inLen.toNat → Room p s →
    ∃ t, exec (.last lit mc) s = .next t
      ∧ t = { s with outb := t.outb, res := { s.res with blockIdx := s.res.blockIdx + 1#32 }, int := { s.int with
          ip := w32 (s.int.ip.toNat + (Instr.last lit mc).size + 4 * s.int.bck.toNat), op := w32 p
          t := (encode (.last lit mc)).headD 0#8, litLen := w32 lit.length, point := .block
          cc := if s.int.cck then s.int.cc ++ t.outBytes s.int.bstart.toNat (p - s.int.bstart.toNat) else s.int.cc } }
      ∧ t.outBytes s.int.op.toNat lit.length = lit
      ∧ ∀ a, a < s.int.op.toNat ∨ p ≤ a → t.outb.read a = s.outb.read a

/-! ### The frame reader (43_frame.md) -/

/-- R162, R178 with R163, R167, R174 to R177: DFRAME on the bytes of any legal frame, whatever follows them, ends Done
with the frame's content as output and `IN_POS` at the frame's end, and the header's fields, the number of data blocks
and the content checksum in their registers. -/
def Obligations.DframeDecodesLegalFrame : Prop :=
  ∀ (s : State) (f : Frame) (rest : List Byte), s.busy = false →
    HasInput s (f.bytes s.cfg ++ rest) → f.legal = true → f.content.length ≤ s.opr.outCap.toNat →
    ∃ t, exec .dframe s = .next t
      ∧ Ended { state := .done, fsm := .finished, lastCmd := 0x05#8 } .none
          { desc := descWord (flgByte f.head.indep f.head.bck f.head.csz f.head.cck false f.head.did)
              (bdByte f.head.code) (headerByte s.cfg f.head.descriptor)
            csizeLo := if f.head.csz then w32 f.head.csize.toNat else 0#32
            csizeHi := if f.head.csz then w32 (f.head.csize.toNat / 2 ^ 32) else 0#32
            dictId := if f.head.did then f.head.dictId else 0#32
            blockIdx := w32 f.blocks.length
            cksum := if f.head.cck then ck32 s.cfg f.content else 0#32 }
          0 f.content.length (f.bytes s.cfg).length s t
      ∧ t.outBytes 0 f.content.length = f.content

/-- R28, R163, R201, R205, R210 with R42: for every input DFRAME ends, Done and Finished, or with one of the errors of
its rows, in the states of the reader where they can arise; its output is within `OUT_CAP`, its input within `IN_LEN`;
it writes only its own result registers; the hash table, and every byte of `OUT` from `OUT_CAP` on, are as before, and
those between `OUT_LEN` and `OUT_CAP` are as before or, by R29, unspecified. -/
def Obligations.DframeIsSafe : Prop :=
  ∀ s : State, s.busy = false → ∃ t, exec .dframe s = .next t
    ∧ (t.status = { state := .done, fsm := .finished, lastCmd := 0x05#8 } ∧ t.err = .none
      ∨ t.status = { state := .error, fsm := .failed, fsmAt := t.status.fsmAt, lastCmd := 0x05#8 }
        ∧ (t.status.fsmAt = .header ∧ t.res.outLen = 0#32
            ∧ t.err ∈ [.unexpectedEndOfInput, .invalidMagicNumber, .headerChecksumMismatch, .formatViolation]
          ∨ t.status.fsmAt = .blocks
            ∧ t.err ∈ [.unexpectedEndOfInput, .formatViolation, .blockChecksumMismatch, .insufficientOutputSpace,
                .malformedSequence]
          ∨ t.status.fsmAt = .endMark
            ∧ t.err ∈ [.unexpectedEndOfInput, .contentChecksumMismatch, .outputSizeMismatch]))
    ∧ t.res = { outLen := t.res.outLen, inPos := t.res.inPos, desc := t.res.desc, csizeLo := t.res.csizeLo
                csizeHi := t.res.csizeHi, dictId := t.res.dictId, blockIdx := t.res.blockIdx, cksum := t.res.cksum }
    ∧ t.res.outLen.toNat ≤ s.opr.outCap.toNat ∧ t.res.inPos.toNat ≤ s.opr.inLen.toNat
    ∧ t.ht = s.ht ∧ Kept s t ∧ Unwritten 0 t.res.outLen.toNat s t

/-- R166: DFRAME on fewer than four bytes is an `UnexpectedEndOfInput`, on a wrong magic number an
`InvalidMagicNumber`, both with `IN_POS` and `OUT_LEN` 0; no other result register and no byte of `OUT` is written
(R29 lets those below `OUT_CAP` lose their content). -/
def Obligations.DframeChecksMagic : Prop :=
  ∀ s : State, s.busy = false →
    let failed : Status := { state := .error, fsm := .failed, fsmAt := .header, lastCmd := 0x05#8 }
    (s.opr.inLen.toNat < 4 → ∃ t, exec .dframe s = .next t
      ∧ Ended failed .unexpectedEndOfInput {} 0 0 0 s t)
    ∧ (4 ≤ s.opr.inLen.toNat → leNat (s.inBytes 0 4) ≠ 0x184D2204 → ∃ t, exec .dframe s = .next t
      ∧ Ended failed .invalidMagicNumber {} 0 0 0 s t)

/-- R165, R167, R169: behind a right magic number DFRAME first needs the whole header, then compares the header
checksum, whose mismatch shows the three bytes as read in `DESC`, and only then refuses a descriptor with an illegal
field; each error stops with `IN_POS` 4 and `OUT_LEN` 0. -/
def Obligations.DframeChecksHeader : Prop :=
  ∀ s : State, s.busy = false → 4 ≤ s.opr.inLen.toNat → leNat (s.inBytes 0 4) = 0x184D2204 →
    let flg := s.inByte 4
    let bd := s.inByte 5
    let dlen := 2 + 8 * (flg.toNat / 8 % 2) + 4 * (flg.toNat % 2)
    let hc := s.inByte (4 + dlen)
    let seen : Results := { desc := w32 (flg.toNat + 2 ^ 8 * bd.toNat + 2 ^ 16 * hc.toNat) }
    let failed : Status := { state := .error, fsm := .failed, fsmAt := .header, lastCmd := 0x05#8 }
    (s.opr.inLen.toNat < 4 + dlen + 1 → ∃ t, exec .dframe s = .next t
      ∧ Ended failed .unexpectedEndOfInput {} 0 0 4 s t)
    ∧ (4 + dlen + 1 ≤ s.opr.inLen.toNat →
      (hc.toNat ≠ (ck32 s.cfg (s.inBytes 4 dlen)).toNat / 2 ^ 8 % 256 → ∃ t, exec .dframe s = .next t
        ∧ Ended failed .headerChecksumMismatch seen 0 0 4 s t)
      ∧ (hc.toNat = (ck32 s.cfg (s.inBytes 4 dlen)).toNat / 2 ^ 8 % 256 →
        flg.toNat / 64 ≠ 1 ∨ flg.toNat / 2 % 2 = 1 ∨ bd.toNat / 128 = 1 ∨ bd.toNat % 16 ≠ 0 ∨ bd.toNat / 16 % 8 < 4 →
        ∃ t, exec .dframe s = .next t ∧ Ended failed .formatViolation seen 0 0 4 s t))

/-- R162 steps H1, H2, H4 (R75, R77, R78, R167, R168): the header's elements but HC.  The magic number moves `ip` past
it.  The FLG byte is latched, its fields where R75 puts them, legal or not.  The BD byte, its code in bits 6:4, is
latched when the rest of the header, which FLG sizes, is there; otherwise `UnexpectedEndOfInput`, with `IN_POS` at the
descriptor.  The content size goes to `CSIZE_HI` and `CSIZE_LO`, the dictionary ID to `DICT_ID`; after the last field of
the header `ip` is past the header and the reader in `ReadingBlocks`.  Nothing else changes. -/
def Obligations.HeaderElementsAreTaken : Prop :=
  (∀ s : State, s.int.ip.toNat + 4 ≤ s.opr.inLen.toNat → ∃ ip : Word, ip.toNat = s.int.ip.toNat + 4
    ∧ exec .magic s = .next { s with int := { s.int with ip := ip, point := .flg } })
  ∧ (∀ (s : State) (indep bck csz cck rsv did : Bool), ∃ b : Byte,
    exec (.flg indep bck csz cck rsv did) s = .next { s with int := { s.int with flg := b, point := .bd } }
    ∧ b.toNat / 64 = 1 ∧ b.getLsbD 5 = indep ∧ b.getLsbD 4 = bck ∧ b.getLsbD 3 = csz ∧ b.getLsbD 2 = cck
    ∧ b.getLsbD 1 = rsv ∧ b.getLsbD 0 = did)
  ∧ (∀ (s : State) (code : BitVec 3), s.int.ip.toNat ≤ s.opr.inLen.toNat →
    let dlen := 2 + 8 * (s.int.flg.toNat / 8 % 2) + 4 * (s.int.flg.toNat % 2)
    (s.int.ip.toNat + dlen + 1 ≤ s.opr.inLen.toNat → ∃ b : Byte, b.toNat = 16 * code.toNat
      ∧ exec (.bd code) s = .next { s with int := { s.int with bd := b, point := .hc } })
    ∧ (s.opr.inLen.toNat < s.int.ip.toNat + dlen + 1 → ∃ t, exec (.bd code) s = .next t
      ∧ Raised .unexpectedEndOfInput s.res s.int.op.toNat s.int.op.toNat s.int.ip.toNat s t))
  ∧ ∀ (s : State) (v : BitVec 64) (d : Word), s.int.ip.toNat + descLen s.int.flg + 1 ≤ s.opr.inLen.toNat →
    (∃ t, exec (.csize v) s = .next t
      ∧ t.res = { s.res with csizeLo := t.res.csizeLo, csizeHi := t.res.csizeHi }
      ∧ t.res.csizeLo.toNat + 2 ^ 32 * t.res.csizeHi.toNat = v.toNat
      ∧ (s.int.did = true → t = { s with res := t.res, int := { s.int with point := .dictid } })
      ∧ (s.int.did = false → t = { s with
          res := t.res, status := { s.status with fsm := .blocks }
          int := { s.int with point := .block, ip := w32 (s.int.ip.toNat + descLen s.int.flg + 1) } }))
    ∧ exec (.dictid d) s = .next { s with
        res := { s.res with dictId := d }, status := { s.status with fsm := .blocks }
        int := { s.int with point := .block, ip := w32 (s.int.ip.toNat + descLen s.int.flg + 1) } }

/-- R167, R169, R162 step H4 (R76): the HC byte, compared with bits 15:8 of the checksum of the descriptor, ends
DFRAME by `HeaderChecksumMismatch` or, the fields of FLG and BD being illegal, by `FormatViolation`; otherwise the
fields are latched and the next field of the header, or the first block, follows. -/
def Obligations.HcDecidesTheHeader : Prop :=
  ∀ (s : State) (h : Byte), s.int.ip.toNat + descLen s.int.flg + 1 ≤ s.opr.inLen.toNat →
    let flg := s.int.flg
    let bd := s.int.bd
    let seen : Results := { s.res with desc := w32 (flg.toNat + 2 ^ 8 * bd.toNat + 2 ^ 16 * h.toNat) }
    let right := h.toNat = (ck32 s.cfg (s.inBytes s.int.ip.toNat (descLen flg))).toNat / 2 ^ 8 % 256
    let illegal := flg.toNat / 64 ≠ 1 ∨ flg.getLsbD 1 = true ∨ bd.getLsbD 7 = true ∨ bd.toNat % 16 ≠ 0
      ∨ bd.toNat / 16 % 8 < 4
    (¬right → ∃ t, exec (.hc h) s = .next t
      ∧ Raised .headerChecksumMismatch seen s.int.op.toNat s.int.op.toNat s.int.ip.toNat s t)
    ∧ (right → illegal → ∃ t, exec (.hc h) s = .next t
      ∧ Raised .formatViolation seen s.int.op.toNat s.int.op.toNat s.int.ip.toNat s t)
    ∧ (right → ¬illegal → ∃ t, exec (.hc h) s = .next t
      ∧ t = { s with res := seen, status := t.status, int := { s.int with
          ip := t.int.ip, point := t.int.point, bmax := t.int.bmax, indep := flg.getLsbD 5, bck := flg.getLsbD 4
          csz := flg.getLsbD 3, cck := flg.getLsbD 2, did := flg.getLsbD 0 } }
      ∧ t.int.bmax.toNat = 2 ^ (8 + 2 * (bd.toNat / 16 % 8))
      ∧ (flg.getLsbD 3 = true → t.int.point = .csize ∧ t.int.ip = s.int.ip ∧ t.status = s.status)
      ∧ (flg.getLsbD 3 = false → flg.getLsbD 0 = true →
          t.int.point = .dictid ∧ t.int.ip = s.int.ip ∧ t.status = s.status)
      ∧ (flg.getLsbD 3 = false → flg.getLsbD 0 = false →
          t.int.point = .block ∧ t.int.ip.toNat = s.int.ip.toNat + 3 ∧ t.status = { s.status with fsm := .blocks }))

/-- R171: a block whose payload is over the block maximum is a `FormatViolation`; one whose payload or checksum is not
all there an `UnexpectedEndOfInput`; both stop just after the size word, with the earlier blocks' output.  A block
with a checksum has it compared next, before anything is decoded. -/
def Obligations.BsizeChecksThePayload : Prop :=
  ∀ (s : State) (stored : Bool) (size : BitVec 31), s.int.ip.toNat + 4 ≤ s.opr.inLen.toNat →
    (s.int.bmax.toNat < size.toNat → ∃ t, exec (.bsize stored size) s = .next t
      ∧ Raised .formatViolation s.res s.int.op.toNat s.int.op.toNat (s.int.ip.toNat + 4) s t)
    ∧ (size.toNat ≤ s.int.bmax.toNat →
        s.opr.inLen.toNat < s.int.ip.toNat + 4 + size.toNat + 4 * s.int.bck.toNat →
        ∃ t, exec (.bsize stored size) s = .next t
          ∧ Raised .unexpectedEndOfInput s.res s.int.op.toNat s.int.op.toNat (s.int.ip.toNat + 4) s t)
    ∧ (size.toNat ≤ s.int.bmax.toNat → s.int.bck = true →
        s.int.ip.toNat + 4 + size.toNat + 4 ≤ s.opr.inLen.toNat →
        exec (.bsize stored size) s = .next { s with int := { s.int with
          ip := w32 (s.int.ip.toNat + 4), blkStored := stored, blkSize := size, point := .bck } })

/-- R172 with R174, R171: a stored block, read at its size word when it has no checksum and at its right checksum when
it has one, is copied to `OUT` when it fits, its output fed to the content checksum where there is one, and counted;
when it does not fit, `InsufficientOutputSpace` with no byte copied (from `op` up to `OUT_CAP` a byte reads as before
or, by R29, is unspecified). -/
def Obligations.StoredBlockIsCopied : Prop :=
  ∀ (s : State) (size : BitVec 31) (k : Word) (at0 : Nat), size.toNat ≤ s.int.bmax.toNat →
    let copies := fun (i : Instr) => (s.int.op.toNat + size.toNat ≤ s.opr.outCap.toNat → ∃ t, exec i s = .next t
        ∧ t = { s with outb := t.outb, res := { s.res with blockIdx := s.res.blockIdx + 1#32 }, int := { s.int with
            ip := w32 (at0 + size.toNat + 4 * s.int.bck.toNat), op := w32 (s.int.op.toNat + size.toNat)
            blkStored := true, blkSize := size, bstart := s.int.op, point := .block
            cc := if s.int.cck then s.int.cc ++ s.inBytes at0 size.toNat else s.int.cc } }
        ∧ t.outBytes s.int.op.toNat size.toNat = s.inBytes at0 size.toNat
        ∧ ∀ a, a < s.int.op.toNat ∨ s.int.op.toNat + size.toNat ≤ a → t.outb.read a = s.outb.read a)
      ∧ (s.opr.outCap.toNat < s.int.op.toNat + size.toNat → ∃ t, exec i s = .next t
        ∧ Raised .insufficientOutputSpace s.res s.int.op.toNat s.int.op.toNat at0 s t)
    (s.int.bck = false → at0 = s.int.ip.toNat + 4 → at0 + size.toNat ≤ s.opr.inLen.toNat →
      copies (.bsize true size))
    ∧ (s.int.bck = true → at0 = s.int.ip.toNat → at0 + size.toNat + 4 ≤ s.opr.inLen.toNat →
      s.int.blkStored = true → s.int.blkSize = size → k = ck32 s.cfg (s.inBytes at0 size.toNat) → copies (.bck k))

/-- R173, R141 with R171: a compressed block, read at its size word or at its right checksum, sets the decoder up in
bounded mode on the payload; independent blocks reach back to the block's start, linked ones to the frame's. -/
def Obligations.CompressedBlockStartsTheDecoder : Prop :=
  ∀ (s : State) (size : BitVec 31) (k : Word) (at0 : Nat), size.toNat ≤ s.int.bmax.toNat →
    let starts := fun (i : Instr) => ∃ t, exec i s = .next t
        ∧ t = { s with int := { s.int with
            ip := w32 at0, inEnd := w32 (at0 + size.toNat), limBlk := t.int.limBlk, limBuf := some s.opr.outCap
            histLo := if s.int.indep then s.int.op else 0#32, exactMode := false
            blkStored := false, blkSize := size, bstart := s.int.op, point := .tokens } }
        ∧ t.int.limBlk.toNat = s.int.op.toNat + s.int.bmax.toNat
    (s.int.bck = false → at0 = s.int.ip.toNat + 4 → at0 + size.toNat ≤ s.opr.inLen.toNat →
      starts (.bsize false size))
    ∧ (s.int.bck = true → at0 = s.int.ip.toNat → at0 + size.toNat + 4 ≤ s.opr.inLen.toNat →
      s.int.blkStored = false → s.int.blkSize = size → k = ck32 s.cfg (s.inBytes at0 size.toNat) → starts (.bck k))

/-- R171, R189: a block checksum that is not that of the payload is, with certainty, a `BlockChecksumMismatch` that
stops just after the size word, and no byte of the block reaches `OUT` (from `OUT_LEN` up to `OUT_CAP` a byte
reads as before or, by R29, is unspecified). -/
def Obligations.WrongBckStopsBeforeDecoding : Prop :=
  ∀ (s : State) (k : Word), k ≠ ck32 s.cfg (s.inBytes s.int.ip.toNat s.int.blkSize.toNat) →
    ∃ t, exec (.bck k) s = .next t
      ∧ Raised .blockChecksumMismatch s.res s.int.op.toNat s.int.op.toNat s.int.ip.toNat s t

/-- R170, R175, R177: the EndMark moves the reader to `AwaitingEndMark` and is consumed; with a content checksum to
come that is all; without one, DFRAME ends: by `OutputSizeMismatch` when the header's content size is not the output's
length, else Done. -/
def Obligations.EndmarkEndsTheBlocks : Prop :=
  ∀ s : State, s.int.ip.toNat + 4 ≤ s.opr.inLen.toNat →
    let s1 : State := { s with status := { s.status with fsm := .endMark } }
    let size := s.res.csizeLo.toNat + 2 ^ 32 * s.res.csizeHi.toNat
    (s.int.cck = true →
      exec .endmark s = .next { s1 with int := { s.int with ip := w32 (s.int.ip.toNat + 4), point := .cck } })
    ∧ (s.int.cck = false → s.int.csz = true → size ≠ s.int.op.toNat → ∃ t, exec .endmark s = .next t
      ∧ Raised .outputSizeMismatch s.res s.int.op.toNat s.int.op.toNat (s.int.ip.toNat + 4) s1 t)
    ∧ (s.int.cck = false → s.int.csz = false ∨ size = s.int.op.toNat → ∃ t, exec .endmark s = .next t
      ∧ Ended { s.status with fsm := .finished, state := .done } s.err s.res s.int.op.toNat s.int.op.toNat
          (s.int.ip.toNat + 4) s t)

/-- R175, R177, R189: `CKSUM` receives the checksum of all output bytes; a content checksum that differs is, with
certainty, a `ContentChecksumMismatch` just after the EndMark; then the content size is compared, last, at the frame's
end; then DFRAME ends Done. -/
def Obligations.CckEndsTheFrame : Prop :=
  ∀ (s : State) (k : Word), s.int.ip.toNat + 4 ≤ s.opr.inLen.toNat →
    let seen : Results := { s.res with cksum := ck32 s.cfg s.int.cc }
    let size := s.res.csizeLo.toNat + 2 ^ 32 * s.res.csizeHi.toNat
    (k ≠ ck32 s.cfg s.int.cc → ∃ t, exec (.cck k) s = .next t
      ∧ Raised .contentChecksumMismatch seen s.int.op.toNat s.int.op.toNat s.int.ip.toNat s t)
    ∧ (k = ck32 s.cfg s.int.cc → s.int.csz = true → size ≠ s.int.op.toNat → ∃ t, exec (.cck k) s = .next t
      ∧ Raised .outputSizeMismatch seen s.int.op.toNat s.int.op.toNat (s.int.ip.toNat + 4) s t)
    ∧ (k = ck32 s.cfg s.int.cc → s.int.csz = false ∨ size = s.int.op.toNat → ∃ t, exec (.cck k) s = .next t
      ∧ Ended { s.status with fsm := .finished, state := .done } s.err seen s.int.op.toNat s.int.op.toNat
          (s.int.ip.toNat + 4) s t)

/-- R84, R144, R162 (every `need`), R170: where the input ends before a token byte, the magic number, the descriptor,
a block size word or the content checksum, the running command's next step raises `UnexpectedEndOfInput` there. R143
steps 2 to 6 (R145 to R148, R150): among the bytes of a token stream that are no encoded sequence, the first fault in
the pseudocode's order is raised, with `IN_POS` after the last byte read and the literals copied when their copy
stands before it: a run of extension bytes that the input cuts off, or whose sum leaves 32 bits; fewer literals than
announced; literals over a limit, whatever follows them; one byte for an offset; an offset of 0 or too far back,
whatever follows. -/
def Obligations.BytesThatAreNoElementStop : Prop :=
  ∀ s : State, s.host = [] → s.busy = true →
    let ip := s.int.ip.toNat
    let op := s.int.op.toNat
    let stops := fun (e : ErrCode) (copied : List Byte) (inPos : Nat) => ∃ u, step s = .next u
      ∧ Raised e s.res op (op + copied.length) inPos s u ∧ u.outBytes op copied.length = copied
    (s.int.point = .tokens ∧ s.int.inEnd.toNat ≤ ip
        ∨ (s.int.point = .magic ∨ s.int.point = .block ∨ s.int.point = .cck) ∧ s.opr.inLen.toNat < ip + 4
        ∨ s.int.point = .flg ∧ s.opr.inLen.toNat < ip + 3 →
      stops .unexpectedEndOfInput [] ip)
    ∧ (s.int.point = .tokens →
      ∀ (t b b0 b1 : Byte) (k len : Nat) (lit more : List Byte) (e : ErrCode),
        let stream := fun bs : List Byte => s.inBytes ip (s.int.inEnd.toNat - ip) = t :: bs
        let lits := encLen lit.length ++ lit
        let head := ip + (1 + extLen lit.length)
        let off := b0.toNat + 256 * b1.toNat
        let reach := op + lit.length - s.int.histLo.toNat
        (t.toNat / 16 = 15 → 15 + 255 * k < 2 ^ 32 →
          (stream (List.replicate k 255#8) → stops .unexpectedEndOfInput [] (ip + 1 + k))
          ∧ (stream (List.replicate k 255#8 ++ b :: more) → 2 ^ 32 ≤ 15 + 255 * k + b.toNat →
            stops .malformedSequence [] (ip + 1 + k + 1)))
        ∧ (t.toNat / 16 = lenCode len → len < 2 ^ 32 → lit.length < len → stream (encLen len ++ lit) →
          stops .unexpectedEndOfInput [] (ip + (1 + extLen len)))
        ∧ (t.toNat / 16 = lenCode lit.length → lit.length < 2 ^ 32 →
          (stream (lits ++ more) → s.int.over (op + lit.length) = some e → stops e [] head)
          ∧ (Room (op + lit.length) s →
            (stream (lits ++ [b]) → stops .unexpectedEndOfInput lit (head + lit.length))
            ∧ (stream (lits ++ b0 :: b1 :: more) → off = 0 ∨ reach < off →
              stops .malformedSequence lit (head + lit.length + 2))
            ∧ (off ≠ 0 → off ≤ reach → t.toNat % 16 = 15 → 15 + 255 * k + 4 < 2 ^ 32 →
              (stream (lits ++ b0 :: b1 :: List.replicate k 255#8) →
                stops .unexpectedEndOfInput lit (head + lit.length + 2 + k))
              ∧ (stream (lits ++ b0 :: b1 :: (List.replicate k 255#8 ++ b :: more)) →
                2 ^ 32 ≤ 15 + 255 * k + b.toNat + 4 →
                stops .malformedSequence lit (head + lit.length + 2 + k + 1))))))

/-! ### The frame writer (43_frame.md) -/

/-- R181: CFRAME refuses, before it writes a byte, an `OUT` below the frame bound: the header, for each block its size
word, worst-case payload and checksum, then EndMark and content checksum. -/
def Obligations.CframeChecksSpaceFirst : Prop :=
  ∀ s : State, s.cfg.wf = true → s.busy = false →
    let n := s.opr.inLen.toNat
    let bmax := 2 ^ (8 + 2 * s.cfg.blockMaxCode)
    let bit := fun i : Nat => s.opr.options.toNat / 2 ^ i % 2
    let sizes := List.replicate (n / bmax) bmax ++ if n % bmax = 0 then [] else [n % bmax]
    let bound := (7 + 8 * bit 3) + (sizes.map fun b => 4 + b + b / 255 + 16 + 4 * bit 1).sum + 4 + 4 * bit 2
    s.opr.outCap.toNat < bound → ∃ t, exec .cframe s = .next t
      ∧ FailedUntouched { state := .error, fsm := .failed, fsmAt := .header, lastCmd := 0x04#8 }
          .insufficientOutputSpace s t

/-- R179, R180 with R182 to R184: with space enough CFRAME ends Done and Finalized, within the frame bound, all input
consumed; `DESC` shows the header written, FLG with version 01 and the four options, BD, and HC; the content size and
checksum are reported where they are written, and `BLOCK_IDX` counts the blocks that the content is cut into. -/
def Obligations.CframeEndsDone : Prop :=
  ∀ s : State, s.cfg.wf = true → s.busy = false →
    let n := s.opr.inLen.toNat
    let bmax := 2 ^ (8 + 2 * s.cfg.blockMaxCode)
    let bit := fun i : Nat => s.opr.options.toNat / 2 ^ i % 2
    let bound := frameBound bmax n (optBck s.opr.options) (optCck s.opr.options) (optCsz s.opr.options)
    let flg := 64 + 32 * bit 0 + 16 * bit 1 + 8 * bit 3 + 4 * bit 2
    let bd := 16 * s.cfg.blockMaxCode
    let descriptor : List Byte := [BitVec.ofNat 8 flg, BitVec.ofNat 8 bd] ++ if bit 3 = 1 then leBytes 8 n else []
    bound ≤ s.opr.outCap.toNat → ∃ t, exec .cframe s = .next t
      ∧ t.status = { state := .done, fsm := .finished, lastCmd := 0x04#8 } ∧ t.err = .none
      ∧ t.res = { outLen := t.res.outLen, inPos := s.opr.inLen, desc := t.res.desc
                  csizeLo := if s.opr.options.getLsbD 3 then s.opr.inLen else 0#32
                  blockIdx := w32 ((n + bmax - 1) / bmax)
                  cksum := if s.opr.options.getLsbD 2 then ck32 s.cfg (s.inBytes 0 n) else 0#32 }
      ∧ t.res.desc.toNat = flg + 2 ^ 8 * bd + 2 ^ 16 * ((ck32 s.cfg descriptor).toNat / 2 ^ 8 % 2 ^ 8)
      ∧ t.res.outLen.toNat ≤ bound ∧ Kept s t ∧ Unwritten 0 t.res.outLen.toNat s t

/-- R179, R182, R183: what CFRAME writes is a legal frame with the input as content, with the options' header and
without a dictionary ID, cut into blocks of the block maximum but the last. -/
def Obligations.CframeWritesLegalFrame : Prop :=
  ∀ s t : State, s.cfg.wf = true → s.busy = false → exec .cframe s = .next t → t.err = .none →
    ∃ f : Frame, t.outBytes 0 t.res.outLen.toNat = f.bytes s.cfg ∧ f.legal = true
      ∧ f.content = s.inBytes 0 s.opr.inLen.toNat
      ∧ f.head.indep = s.opr.options.getLsbD 0 ∧ f.head.bck = s.opr.options.getLsbD 1
      ∧ f.head.cck = s.opr.options.getLsbD 2 ∧ f.head.csz = s.opr.options.getLsbD 3 ∧ f.head.did = false
      ∧ f.head.code.toNat = s.cfg.blockMaxCode
      ∧ f.blocks.length = (s.opr.inLen.toNat + 2 ^ (8 + 2 * s.cfg.blockMaxCode) - 1) / 2 ^ (8 + 2 * s.cfg.blockMaxCode)
      ∧ ∀ k, k ≤ f.blocks.length → (blocksOutput [] (f.blocks.take k)).length
          = min s.opr.inLen.toNat (k * 2 ^ (8 + 2 * s.cfg.blockMaxCode))

/-- R188: for every input and all options, DFRAME, on an engine with the same checksum, on what CFRAME wrote gives the
input back when `OUT` can hold it, and `InsufficientOutputSpace` when it cannot. -/
def Obligations.FrameRoundTrip : Prop :=
  ∀ s t u : State, s.cfg.wf = true → s.busy = false → exec .cframe s = .next t → t.err = .none →
    u.busy = false → u.cfg.checksum = s.cfg.checksum → HasInput u (t.outBytes 0 t.res.outLen.toNat) →
    (s.opr.inLen.toNat ≤ u.opr.outCap.toNat → ∃ v, exec .dframe u = .next v
      ∧ v.status.state = .done ∧ v.err = .none ∧ v.res.outLen = s.opr.inLen ∧ v.res.inPos = t.res.outLen
      ∧ v.outBytes 0 s.opr.inLen.toNat = s.inBytes 0 s.opr.inLen.toNat)
    ∧ (u.opr.outCap.toNat < s.opr.inLen.toNat → ∃ v, exec .dframe u = .next v
      ∧ v.status.state = .error ∧ v.err = .insufficientOutputSpace)

/-! ### Encodings (30_encoding.md) -/

/-- Words written out from R60, R65 to R83, R89: what they decode to. -/
def Obligations.DecodedWords : Prop :=
  decode .cmd [0x01#8] = .ok .cbound ∧ decode .cmd [0x05#8] = .ok .dframe ∧ decode .cmd [0x11#8] = .ok .mffind
  ∧ decode .token [0x13#8, 0x61#8, 0x01#8, 0x00#8] = .ok (.seq [0x61#8] 1#16 7)
  ∧ decode .token [0x50#8, 0x61#8, 0x61#8, 0x61#8, 0x61#8, 0x61#8] = .ok (.last (List.replicate 5 0x61#8) 0#4)
  ∧ decode .token [0x0F#8, 0x01#8, 0x00#8, 0x00#8] = .ok (.seq [] 1#16 19)
  ∧ decode .magic [0x04#8, 0x22#8, 0x4D#8, 0x18#8] = .ok .magic
  ∧ decode .flg [0x7C#8] = .ok (.flg true true true true false false) ∧ decode .bd [0x40#8] = .ok (.bd 4#3)
  ∧ decode .csize [0x68#8, 0x01#8, 0#8, 0#8, 0#8, 0#8, 0#8, 0#8] = .ok (.csize 360#64)
  ∧ decode .block [0x1A#8, 0x00#8, 0x00#8, 0x80#8] = .ok (.bsize true 26#31)
  ∧ decode .block [0#8, 0#8, 0#8, 0#8] = .ok .endmark
  ∧ decode .cck [0x33#8, 0x80#8, 0xB7#8, 0x81#8] = .ok (.cck 0x81B78033#32)

/-- R64 to R87: decoding the bytes of a well-formed instruction, read at its place, whatever follows them, gives the
instruction back; a terminal sequence is one because nothing follows it (R71). -/
def Obligations.DecodeOfEncode : Prop :=
  ∀ (i : Instr) (rest : List Byte), i.wf = true →
    ((∃ lit mc, i = .last lit mc) → rest = []) → decode i.site (encode i ++ rest) = .ok i

/-- R64 to R87: bytes that decode to an instruction begin with exactly its encoding, so every word has one meaning at
its place; and a terminal sequence takes the rest of the bytes. -/
def Obligations.EncodeOfDecode : Prop :=
  ∀ (site : Site) (bs : List Byte) (i : Instr), decode site bs = .ok i →
    i.site = site ∧ encode i <+: bs ∧ (encode i).length = i.size
      ∧ ((∃ lit mc, i = .last lit mc) → encode i = bs)

/-- R62, R72, R84: an offset of 0 behind any literals, an opcode that R60 does not list, a wrong magic number, an FLG
byte of another version and a BD byte with a reserved bit set decode to no instruction; an FLG byte with its reserved
bit 1 set and a BD byte with a code below 4 decode to an instruction that is not well formed (which of these are
rejected and which ill formed is the model's choice: assumption log 13), and no other ill-formed instruction is ever
decoded. -/
def Obligations.IllegalEncodingsAreRejected : Prop :=
  (∀ (lit rest : List Byte) (t : Byte), t.toNat / 16 = lenCode lit.length → lit.length < 2 ^ 32 →
    decode .token (t :: (encLen lit.length ++ lit ++ 0#8 :: 0#8 :: rest)) = .error (.offZero t lit))
  ∧ (∀ (b : Byte) (rest : List Byte),
    (b.toNat ∉ [0x01, 0x02, 0x03, 0x04, 0x05, 0x10, 0x11, 0x12, 0x1F] →
      decode .cmd (b :: rest) = .error (.reservedOpcode b))
    ∧ (b.toNat / 64 ≠ 1 → decode .flg (b :: rest) = .error (.badFlg b))
    ∧ (b.toNat / 128 = 1 ∨ b.toNat % 16 ≠ 0 → decode .bd (b :: rest) = .error (.badBd b)))
  ∧ (∀ b0 b1 b2 b3 : Byte, ∀ rest : List Byte, leNat [b0, b1, b2, b3] ≠ 0x184D2204 →
    decode .magic (b0 :: b1 :: b2 :: b3 :: rest) = .error .badMagic)
  ∧ ∀ (site : Site) (b : Byte) (rest : List Byte) (i : Instr), decode site (b :: rest) = .ok i →
    (i.wf = false ↔ site = .flg ∧ b.toNat / 2 % 2 = 1 ∨ site = .bd ∧ b.toNat / 16 < 4)

/-! ### The whole machine -/

/-- A step runs the decoded instruction: with a host action pending it is a write to `CMD` whose low byte decodes; with
none, and a command running, it is the element that the bytes at the place where the engine reads decode to.  R26, R231:
with no action pending and no command running a step changes nothing; a pending action is taken first.  (That the host's
actions are a queue in the state is the model's choice: assumption log 9.) -/
def Obligations.StepRunsDecodedInstruction : Prop :=
  (∀ (s : State) (v : Word) (rest : List HostAct) (i : Instr), s.host = .wr 0 v :: rest →
    decode .cmd [v.setWidth 8] = .ok i → step s = exec i { s with host := rest })
  ∧ (∀ (s : State) (site : Site) (i : Instr), s.host = [] → s.busy = true → s.int.point.site = some site →
    decode site (s.fetchBytes site) = .ok i → step s = exec i s)
  ∧ (∀ s : State, s.host = [] → s.busy = false → step s = .next s)
  ∧ ∀ (s : State) (a : HostAct) (rest : List HostAct), s.host = a :: rest → step s = hostAct a { s with host := rest }

/-- R5, R16, R71: with the encoding of a well-formed element standing in `IN` at the place where the engine reads, and
the input reaching past it, the next step executes that element. -/
def Obligations.WrittenElementRuns : Prop :=
  ∀ (s : State) (i : Instr), i.wf = true → s.host = [] → s.busy = true → s.int.point.site = some i.site →
    s.inBytes (s.int.fetchAt i.site) i.size = encode i →
    (i.site = .token → s.int.ip.toNat + i.size ≤ s.int.inEnd.toNat) →
    ((∃ lit mc, i = .last lit mc) → s.int.ip.toNat + i.size = s.int.inEnd.toNat) →
    (i.site ≠ .token → s.int.fetchAt i.site + siteNeed i.site ≤ s.opr.inLen.toNat) →
    step s = exec i s

/-- The invariant holds after reset. -/
def Obligations.ResetMeetsInvariant : Prop := State.reset.inv = true ∧ State.reset.cursorsOk = true

/-- R12, R19, R20, R205: every step keeps the invariant: the buffers and the table in canonical form, the table within
`2^HASH_LOG` entries; `STATE` Error exactly when `ERR` names an error; `STORED` only after CBLOCK, `MATCH` only after
MFFIND, `FSM` only in a frame command, Failed and `FSM_AT` only after its error; the engine at a point of the command
that `LAST_CMD` names exactly while Busy. -/
def Obligations.StepKeepsInvariant : Prop :=
  ∀ s t : State, s.inv = true → step s = .next t → t.inv = true

/-- R16, R28: `ip` and `pos` never pass the end of the input, nor what a check has found to be there.  (That
`mlimit` is within a region that ends below `LAST_LITERALS` is the model's choice: assumption log 22.) -/
def Obligations.StepKeepsCursorsInInput : Prop :=
  ∀ s t : State, s.inv = true → s.cursorsOk = true → step s = .next t → t.cursorsOk = true

/-- R14, R28, R42: no instruction changes an operand register, a parameter or a byte of `IN`, nor the host's side; no
command but MFCLR, MFFIND, MFINS, CBLOCK, CFRAME and ABORT, and no element, changes the hash table;
and no step, not even one that takes a reset, changes a parameter (R24; of a
reset event it is assumption log 18). -/
def Obligations.InstructionsKeepOperandsAndInput : Prop :=
  (∀ (i : Instr) (s t : State), exec i s = .next t →
    Kept s t ∧ (i ∉ [.mfclr, .mffind, .mfins, .cblock, .cframe, .abort] → t.ht = s.ht))
  ∧ ∀ s t : State, step s = .next t → t.cfg = s.cfg

/-- R210: every command, on every operand and every input, ends: it leaves the engine not Busy, and Error exactly when
`ERR` names an error. -/
def Obligations.EveryCommandEnds : Prop :=
  ∀ (s : State) (i : Instr) (c : Cmd), s.inv = true → s.busy = false → commandOf i = some c →
    ∃ t, exec i s = .next t ∧ t.busy = false ∧ t.status.lastCmd = c.opcode
      ∧ (t.status.state = .done ∧ t.err = .none ∨ t.status.state = .error ∧ t.err ≠ .none)

/-- R245, R246: a command that runs as one atomic step gives the state that the same command reaches when the machine
takes the engine's steps one by one (what one whole step is, is the model's choice: assumption log 7). -/
def Obligations.AtomicCommandEqualsItsSteps : Prop :=
  ∀ (s : State) (i : Instr) (c : Cmd), s.host = [] → s.busy = false → commandOf i = some c →
    ∃ k, Host.Core.run Sys2Proof.core k (s.startCmd c) = exec i s
end

