-- ==== Sys2Proof/Laws/Memory.lean ====
section
/-! SUPPORT. The laws of tables and buffers: read after write, and that every operation keeps the canonical form. -/

namespace Sys2Proof.Machine

variable {α : Type}

@[simp] theorem Table.get_nil (i : Nat) : Table.get ([] : Table α) i = none := rfl

theorem Table.get_put (t : Table α) (i j : Nat) (v : α) :
    (Table.put t i v).get j = if j = i then some v else Table.get t j := by
  induction t with
  | nil => simp only [Table.put, Table.get]
  | cons e t ih =>
    obtain ⟨k, w⟩ := e
    by_cases h1 : i < k
    · simp only [Table.put, if_pos h1, Table.get]
    · by_cases h2 : i = k
      · subst h2
        simp only [Table.put, if_neg h1, if_pos, Table.get]
        split_ifs <;> rfl
      · simp only [Table.put, if_neg h1, if_neg h2, Table.get, ih]
        split_ifs <;> first | rfl | omega

@[simp] theorem Table.get_put_same (t : Table α) (i : Nat) (v : α) : (Table.put t i v).get i = some v := by
  simp [Table.get_put]

theorem Table.get_put_ne (t : Table α) {i j : Nat} (v : α) (h : j ≠ i) :
    (Table.put t i v).get j = Table.get t j := by
  simp [Table.get_put, h]

/-- The canonical form is that the indices are pairwise rising. -/
theorem Table.wf_iff (t : Table α) : Table.wf t = true ↔ t.Pairwise (fun a b => a.1 < b.1) := by
  induction t with
  | nil => simp [Table.wf]
  | cons e t ih =>
    cases t with
    | nil => simp [Table.wf]
    | cons f t =>
      obtain ⟨i, u⟩ := e
      obtain ⟨j, v⟩ := f
      simp only [Table.wf, Bool.and_eq_true, decide_eq_true_eq, ih]
      rw [List.pairwise_cons (a := (i, u))]
      refine and_congr_left fun h => ?_
      rw [List.pairwise_cons] at h
      constructor
      · intro hij a ha
        rcases List.mem_cons.1 ha with rfl | ha
        · exact hij
        · exact hij.trans (h.1 a ha)
      · intro ha
        exact ha (j, v) (List.mem_cons_self ..)

/-- The entries of a table after a write are the entry written and entries it had. -/
theorem Table.mem_put {t : Table α} {i : Nat} {v : α} {e : Nat × α} (h : e ∈ Table.put t i v) :
    e = (i, v) ∨ e ∈ t := by
  induction t with
  | nil => simpa [Table.put] using h
  | cons f t ih =>
    obtain ⟨j, w⟩ := f
    simp only [Table.put] at h
    split_ifs at h
    · rcases List.mem_cons.1 h with h | h
      · exact .inl h
      · exact .inr h
    · rcases List.mem_cons.1 h with h | h
      · exact .inl h
      · exact .inr (List.mem_cons_of_mem _ h)
    · rcases List.mem_cons.1 h with h | h
      · exact .inr (h ▸ List.mem_cons_self ..)
      · exact (ih h).imp_right (List.mem_cons_of_mem _)

theorem Table.put_wf {t : Table α} (i : Nat) (v : α) (h : Table.wf t = true) : Table.wf (Table.put t i v) = true := by
  rw [Table.wf_iff] at h ⊢
  induction t with
  | nil => simp [Table.put]
  | cons e t ih =>
    obtain ⟨j, w⟩ := e
    rw [List.pairwise_cons] at h
    simp only [Table.put]
    split_ifs with h1 h2
    · refine List.pairwise_cons.2 ⟨fun a ha => ?_, List.pairwise_cons.2 h⟩
      rcases List.mem_cons.1 ha with rfl | ha
      · exact h1
      · exact h1.trans (h.1 a ha)
    · subst h2
      exact List.pairwise_cons.2 h
    · refine List.pairwise_cons.2 ⟨fun a ha => ?_, ih h.2⟩
      rcases Table.mem_put ha with rfl | ha
      · show j < i; omega
      · exact h.1 a ha

theorem Memory.writeBytes_wf (m : Memory) (a : Nat) (bs : List Byte) (h : m.wf = true) :
    (m.writeBytes a bs).wf = true := by
  induction bs generalizing m a with
  | nil => exact h
  | cons b bs ih => exact ih _ _ (Table.put_wf a b h)

theorem Memory.forget_wf (m : Memory) (lo hi : Nat) (h : m.wf = true) : (m.forget lo hi).wf = true := by
  rw [Memory.wf, Table.wf_iff] at h ⊢
  exact h.filter _

theorem copyBack_wf (free : Nat → Byte) (off n op : Nat) (m : Memory) (h : m.wf = true) :
    (copyBack free off n op m).wf = true := by
  induction n generalizing op m with
  | zero => exact h
  | succ n ih => exact ih _ _ (Table.put_wf _ _ h)

/-- Reading a byte after a `MemWrite`: inside the bytes written, the byte written; elsewhere, as before. -/
theorem Memory.read_writeBytes (m : Memory) (a : Nat) (bs : List Byte) (i : Nat) :
    (m.writeBytes a bs).read i = if a ≤ i ∧ i < a + bs.length then bs[i - a]? else m.read i := by
  induction bs generalizing m a with
  | nil =>
    simp only [Memory.writeBytes, List.length_nil]
    rw [if_neg (by omega)]
  | cons b bs ih =>
    simp only [Memory.writeBytes, ih, List.length_cons]
    by_cases hia : i = a
    · subst hia
      rw [if_neg (by omega), if_pos (by omega), Memory.read, Memory.write, Table.get_put_same]
      simp
    · by_cases hin : a + 1 ≤ i ∧ i < a + 1 + bs.length
      · rw [if_pos hin, if_pos (by omega)]
        obtain ⟨k, rfl⟩ : ∃ k, i = a + 1 + k := ⟨i - (a + 1), by omega⟩
        have h1 : a + 1 + k - (a + 1) = k := by omega
        have h2 : a + 1 + k - a = k + 1 := by omega
        rw [h1, h2, List.getElem?_cons_succ]
      · rw [if_neg hin, if_neg (by omega), Memory.read, Memory.write, Table.get_put_ne _ _ hia]

/-- Reading a byte after some were left unspecified. -/
theorem Memory.read_forget (m : Memory) (lo hi i : Nat) :
    (m.forget lo hi).read i = if lo ≤ i ∧ i < hi then none else m.read i := by
  induction m with
  | nil => simp [Memory.forget]
  | cons e m ih =>
    obtain ⟨j, b⟩ := e
    simp only [Memory.forget, Memory.read, List.filter_cons, Bool.or_eq_true, decide_eq_true_eq] at ih ⊢
    by_cases hj : j < lo ∨ hi ≤ j
    · rw [if_pos hj]
      simp only [Table.get, ih]
      split_ifs <;> first | rfl | omega
    · rw [if_neg hj, ih]
      simp only [Table.get]
      split_ifs <;> first | rfl | omega

/-- The match copy changes no byte outside `[op, op + n)`. -/
theorem copyBack_read_outside (free : Nat → Byte) (off n op : Nat) (m : Memory) {i : Nat} (h : i < op ∨ op + n ≤ i) :
    (copyBack free off n op m).read i = m.read i := by
  induction n generalizing op m with
  | zero => rfl
  | succ n ih =>
    simp only [copyBack]
    rw [ih _ _ (by omega), Memory.read, Memory.write, Table.get_put_ne _ _ (by omega)]

/-- The buffers and the table after reset are in canonical form. -/
theorem reset_buffers_wf : State.reset.inb.wf = true ∧ State.reset.outb.wf = true ∧ Table.wf State.reset.ht = true :=
  ⟨rfl, rfl, rfl⟩

end Sys2Proof.Machine
end

