-- ==== Sys2Proof/Laws/State.lean ====
section
/-! SUPPORT. One lemma per field of State per update: what the update makes of the field. -/

namespace Sys2Proof.Machine

/-! ### `State.skip` -/

@[simp] theorem State.skip_cfg (n : Nat) (s : State) : (s.skip n).cfg = s.cfg := rfl
@[simp] theorem State.skip_status (n : Nat) (s : State) : (s.skip n).status = s.status := rfl
@[simp] theorem State.skip_err (n : Nat) (s : State) : (s.skip n).err = s.err := rfl
@[simp] theorem State.skip_opr (n : Nat) (s : State) : (s.skip n).opr = s.opr := rfl
@[simp] theorem State.skip_res (n : Nat) (s : State) : (s.skip n).res = s.res := rfl
@[simp] theorem State.skip_int (n : Nat) (s : State) : (s.skip n).int = { s.int with ip := w32 (s.int.ip.toNat + n) } := rfl
@[simp] theorem State.skip_ht (n : Nat) (s : State) : (s.skip n).ht = s.ht := rfl
@[simp] theorem State.skip_inb (n : Nat) (s : State) : (s.skip n).inb = s.inb := rfl
@[simp] theorem State.skip_outb (n : Nat) (s : State) : (s.skip n).outb = s.outb := rfl
@[simp] theorem State.skip_host (n : Nat) (s : State) : (s.skip n).host = s.host := rfl
@[simp] theorem State.skip_rdData (n : Nat) (s : State) : (s.skip n).rdData = s.rdData := rfl
@[simp] theorem State.skip_rdBytes (n : Nat) (s : State) : (s.skip n).rdBytes = s.rdBytes := rfl
@[simp] theorem State.skip_inEpoch (n : Nat) (s : State) : (s.skip n).inEpoch = s.inEpoch := rfl
@[simp] theorem State.skip_outEpoch (n : Nat) (s : State) : (s.skip n).outEpoch = s.outEpoch := rfl
@[simp] theorem State.skip_outFreed (n : Nat) (s : State) : (s.skip n).outFreed = s.outFreed := rfl
@[simp] theorem State.skip_fresh (n : Nat) (s : State) : (s.skip n).fresh = s.fresh := rfl

/-! ### `State.outWrite` -/

@[simp] theorem State.outWrite_cfg (s : State) (a : Nat) (bs : List Byte) : (s.outWrite a bs).cfg = s.cfg := rfl
@[simp] theorem State.outWrite_status (s : State) (a : Nat) (bs : List Byte) : (s.outWrite a bs).status = s.status := rfl
@[simp] theorem State.outWrite_err (s : State) (a : Nat) (bs : List Byte) : (s.outWrite a bs).err = s.err := rfl
@[simp] theorem State.outWrite_opr (s : State) (a : Nat) (bs : List Byte) : (s.outWrite a bs).opr = s.opr := rfl
@[simp] theorem State.outWrite_res (s : State) (a : Nat) (bs : List Byte) : (s.outWrite a bs).res = s.res := rfl
@[simp] theorem State.outWrite_int (s : State) (a : Nat) (bs : List Byte) : (s.outWrite a bs).int = s.int := rfl
@[simp] theorem State.outWrite_ht (s : State) (a : Nat) (bs : List Byte) : (s.outWrite a bs).ht = s.ht := rfl
@[simp] theorem State.outWrite_inb (s : State) (a : Nat) (bs : List Byte) : (s.outWrite a bs).inb = s.inb := rfl
@[simp] theorem State.outWrite_outb (s : State) (a : Nat) (bs : List Byte) : (s.outWrite a bs).outb = s.outb.writeBytes a bs := rfl
@[simp] theorem State.outWrite_host (s : State) (a : Nat) (bs : List Byte) : (s.outWrite a bs).host = s.host := rfl
@[simp] theorem State.outWrite_rdData (s : State) (a : Nat) (bs : List Byte) : (s.outWrite a bs).rdData = s.rdData := rfl
@[simp] theorem State.outWrite_rdBytes (s : State) (a : Nat) (bs : List Byte) : (s.outWrite a bs).rdBytes = s.rdBytes := rfl
@[simp] theorem State.outWrite_inEpoch (s : State) (a : Nat) (bs : List Byte) : (s.outWrite a bs).inEpoch = s.inEpoch := rfl
@[simp] theorem State.outWrite_outEpoch (s : State) (a : Nat) (bs : List Byte) : (s.outWrite a bs).outEpoch = s.outEpoch := rfl
@[simp] theorem State.outWrite_outFreed (s : State) (a : Nat) (bs : List Byte) : (s.outWrite a bs).outFreed = s.outFreed := rfl
@[simp] theorem State.outWrite_fresh (s : State) (a : Nat) (bs : List Byte) : (s.outWrite a bs).fresh = s.fresh := rfl

/-! ### `State.inWrite` -/

@[simp] theorem State.inWrite_cfg (s : State) (a : Nat) (bs : List Byte) : (s.inWrite a bs).cfg = s.cfg := rfl
@[simp] theorem State.inWrite_status (s : State) (a : Nat) (bs : List Byte) : (s.inWrite a bs).status = s.status := rfl
@[simp] theorem State.inWrite_err (s : State) (a : Nat) (bs : List Byte) : (s.inWrite a bs).err = s.err := rfl
@[simp] theorem State.inWrite_opr (s : State) (a : Nat) (bs : List Byte) : (s.inWrite a bs).opr = s.opr := rfl
@[simp] theorem State.inWrite_res (s : State) (a : Nat) (bs : List Byte) : (s.inWrite a bs).res = s.res := rfl
@[simp] theorem State.inWrite_int (s : State) (a : Nat) (bs : List Byte) : (s.inWrite a bs).int = s.int := rfl
@[simp] theorem State.inWrite_ht (s : State) (a : Nat) (bs : List Byte) : (s.inWrite a bs).ht = s.ht := rfl
@[simp] theorem State.inWrite_inb (s : State) (a : Nat) (bs : List Byte) : (s.inWrite a bs).inb = s.inb.writeBytes a bs := rfl
@[simp] theorem State.inWrite_outb (s : State) (a : Nat) (bs : List Byte) : (s.inWrite a bs).outb = s.outb := rfl
@[simp] theorem State.inWrite_host (s : State) (a : Nat) (bs : List Byte) : (s.inWrite a bs).host = s.host := rfl
@[simp] theorem State.inWrite_rdData (s : State) (a : Nat) (bs : List Byte) : (s.inWrite a bs).rdData = s.rdData := rfl
@[simp] theorem State.inWrite_rdBytes (s : State) (a : Nat) (bs : List Byte) : (s.inWrite a bs).rdBytes = s.rdBytes := rfl
@[simp] theorem State.inWrite_inEpoch (s : State) (a : Nat) (bs : List Byte) : (s.inWrite a bs).inEpoch = s.inEpoch := rfl
@[simp] theorem State.inWrite_outEpoch (s : State) (a : Nat) (bs : List Byte) : (s.inWrite a bs).outEpoch = s.outEpoch := rfl
@[simp] theorem State.inWrite_outFreed (s : State) (a : Nat) (bs : List Byte) : (s.inWrite a bs).outFreed = s.outFreed := rfl
@[simp] theorem State.inWrite_fresh (s : State) (a : Nat) (bs : List Byte) : (s.inWrite a bs).fresh = s.fresh := rfl

/-! ### `State.atLits` -/

@[simp] theorem State.atLits_cfg (t : Byte) (n : Nat) (s : State) : (s.atLits t n).cfg = s.cfg := rfl
@[simp] theorem State.atLits_status (t : Byte) (n : Nat) (s : State) : (s.atLits t n).status = s.status := rfl
@[simp] theorem State.atLits_err (t : Byte) (n : Nat) (s : State) : (s.atLits t n).err = s.err := rfl
@[simp] theorem State.atLits_opr (t : Byte) (n : Nat) (s : State) : (s.atLits t n).opr = s.opr := rfl
@[simp] theorem State.atLits_res (t : Byte) (n : Nat) (s : State) : (s.atLits t n).res = s.res := rfl
@[simp] theorem State.atLits_int (t : Byte) (n : Nat) (s : State) : (s.atLits t n).int = { s.int with ip := w32 (s.int.ip.toNat + (1 + extLen n)), t := t, litLen := w32 n } := rfl
@[simp] theorem State.atLits_ht (t : Byte) (n : Nat) (s : State) : (s.atLits t n).ht = s.ht := rfl
@[simp] theorem State.atLits_inb (t : Byte) (n : Nat) (s : State) : (s.atLits t n).inb = s.inb := rfl
@[simp] theorem State.atLits_outb (t : Byte) (n : Nat) (s : State) : (s.atLits t n).outb = s.outb := rfl
@[simp] theorem State.atLits_host (t : Byte) (n : Nat) (s : State) : (s.atLits t n).host = s.host := rfl
@[simp] theorem State.atLits_rdData (t : Byte) (n : Nat) (s : State) : (s.atLits t n).rdData = s.rdData := rfl
@[simp] theorem State.atLits_rdBytes (t : Byte) (n : Nat) (s : State) : (s.atLits t n).rdBytes = s.rdBytes := rfl
@[simp] theorem State.atLits_inEpoch (t : Byte) (n : Nat) (s : State) : (s.atLits t n).inEpoch = s.inEpoch := rfl
@[simp] theorem State.atLits_outEpoch (t : Byte) (n : Nat) (s : State) : (s.atLits t n).outEpoch = s.outEpoch := rfl
@[simp] theorem State.atLits_outFreed (t : Byte) (n : Nat) (s : State) : (s.atLits t n).outFreed = s.outFreed := rfl
@[simp] theorem State.atLits_fresh (t : Byte) (n : Nat) (s : State) : (s.atLits t n).fresh = s.fresh := rfl

/-! ### `State.copyLits` -/

@[simp] theorem State.copyLits_cfg (lit : List Byte) (s : State) : (s.copyLits lit).cfg = s.cfg := rfl
@[simp] theorem State.copyLits_status (lit : List Byte) (s : State) : (s.copyLits lit).status = s.status := rfl
@[simp] theorem State.copyLits_err (lit : List Byte) (s : State) : (s.copyLits lit).err = s.err := rfl
@[simp] theorem State.copyLits_opr (lit : List Byte) (s : State) : (s.copyLits lit).opr = s.opr := rfl
@[simp] theorem State.copyLits_res (lit : List Byte) (s : State) : (s.copyLits lit).res = s.res := rfl
@[simp] theorem State.copyLits_int (lit : List Byte) (s : State) : (s.copyLits lit).int = { s.int with ip := w32 (s.int.ip.toNat + lit.length), op := w32 (s.int.op.toNat + lit.length) } := rfl
@[simp] theorem State.copyLits_ht (lit : List Byte) (s : State) : (s.copyLits lit).ht = s.ht := rfl
@[simp] theorem State.copyLits_inb (lit : List Byte) (s : State) : (s.copyLits lit).inb = s.inb := rfl
@[simp] theorem State.copyLits_outb (lit : List Byte) (s : State) : (s.copyLits lit).outb = s.outb.writeBytes s.int.op.toNat lit := rfl
@[simp] theorem State.copyLits_host (lit : List Byte) (s : State) : (s.copyLits lit).host = s.host := rfl
@[simp] theorem State.copyLits_rdData (lit : List Byte) (s : State) : (s.copyLits lit).rdData = s.rdData := rfl
@[simp] theorem State.copyLits_rdBytes (lit : List Byte) (s : State) : (s.copyLits lit).rdBytes = s.rdBytes := rfl
@[simp] theorem State.copyLits_inEpoch (lit : List Byte) (s : State) : (s.copyLits lit).inEpoch = s.inEpoch := rfl
@[simp] theorem State.copyLits_outEpoch (lit : List Byte) (s : State) : (s.copyLits lit).outEpoch = s.outEpoch := rfl
@[simp] theorem State.copyLits_outFreed (lit : List Byte) (s : State) : (s.copyLits lit).outFreed = s.outFreed := rfl
@[simp] theorem State.copyLits_fresh (lit : List Byte) (s : State) : (s.copyLits lit).fresh = s.fresh := rfl

/-! ### `State.atOff` -/

@[simp] theorem State.atOff_cfg (off : BitVec 16) (s : State) : (s.atOff off).cfg = s.cfg := rfl
@[simp] theorem State.atOff_status (off : BitVec 16) (s : State) : (s.atOff off).status = s.status := rfl
@[simp] theorem State.atOff_err (off : BitVec 16) (s : State) : (s.atOff off).err = s.err := rfl
@[simp] theorem State.atOff_opr (off : BitVec 16) (s : State) : (s.atOff off).opr = s.opr := rfl
@[simp] theorem State.atOff_res (off : BitVec 16) (s : State) : (s.atOff off).res = s.res := rfl
@[simp] theorem State.atOff_int (off : BitVec 16) (s : State) : (s.atOff off).int = { s.int with ip := w32 (s.int.ip.toNat + 2), off := off } := rfl
@[simp] theorem State.atOff_ht (off : BitVec 16) (s : State) : (s.atOff off).ht = s.ht := rfl
@[simp] theorem State.atOff_inb (off : BitVec 16) (s : State) : (s.atOff off).inb = s.inb := rfl
@[simp] theorem State.atOff_outb (off : BitVec 16) (s : State) : (s.atOff off).outb = s.outb := rfl
@[simp] theorem State.atOff_host (off : BitVec 16) (s : State) : (s.atOff off).host = s.host := rfl
@[simp] theorem State.atOff_rdData (off : BitVec 16) (s : State) : (s.atOff off).rdData = s.rdData := rfl
@[simp] theorem State.atOff_rdBytes (off : BitVec 16) (s : State) : (s.atOff off).rdBytes = s.rdBytes := rfl
@[simp] theorem State.atOff_inEpoch (off : BitVec 16) (s : State) : (s.atOff off).inEpoch = s.inEpoch := rfl
@[simp] theorem State.atOff_outEpoch (off : BitVec 16) (s : State) : (s.atOff off).outEpoch = s.outEpoch := rfl
@[simp] theorem State.atOff_outFreed (off : BitVec 16) (s : State) : (s.atOff off).outFreed = s.outFreed := rfl
@[simp] theorem State.atOff_fresh (off : BitVec 16) (s : State) : (s.atOff off).fresh = s.fresh := rfl

/-! ### `State.atMatch` -/

@[simp] theorem State.atMatch_cfg (mlen : Nat) (s : State) : (s.atMatch mlen).cfg = s.cfg := rfl
@[simp] theorem State.atMatch_status (mlen : Nat) (s : State) : (s.atMatch mlen).status = s.status := rfl
@[simp] theorem State.atMatch_err (mlen : Nat) (s : State) : (s.atMatch mlen).err = s.err := rfl
@[simp] theorem State.atMatch_opr (mlen : Nat) (s : State) : (s.atMatch mlen).opr = s.opr := rfl
@[simp] theorem State.atMatch_res (mlen : Nat) (s : State) : (s.atMatch mlen).res = s.res := rfl
@[simp] theorem State.atMatch_int (mlen : Nat) (s : State) : (s.atMatch mlen).int = { s.int with ip := w32 (s.int.ip.toNat + extLen (mlen - Config.minMatch)), matchLen := w32 mlen } := rfl
@[simp] theorem State.atMatch_ht (mlen : Nat) (s : State) : (s.atMatch mlen).ht = s.ht := rfl
@[simp] theorem State.atMatch_inb (mlen : Nat) (s : State) : (s.atMatch mlen).inb = s.inb := rfl
@[simp] theorem State.atMatch_outb (mlen : Nat) (s : State) : (s.atMatch mlen).outb = s.outb := rfl
@[simp] theorem State.atMatch_host (mlen : Nat) (s : State) : (s.atMatch mlen).host = s.host := rfl
@[simp] theorem State.atMatch_rdData (mlen : Nat) (s : State) : (s.atMatch mlen).rdData = s.rdData := rfl
@[simp] theorem State.atMatch_rdBytes (mlen : Nat) (s : State) : (s.atMatch mlen).rdBytes = s.rdBytes := rfl
@[simp] theorem State.atMatch_inEpoch (mlen : Nat) (s : State) : (s.atMatch mlen).inEpoch = s.inEpoch := rfl
@[simp] theorem State.atMatch_outEpoch (mlen : Nat) (s : State) : (s.atMatch mlen).outEpoch = s.outEpoch := rfl
@[simp] theorem State.atMatch_outFreed (mlen : Nat) (s : State) : (s.atMatch mlen).outFreed = s.outFreed := rfl
@[simp] theorem State.atMatch_fresh (mlen : Nat) (s : State) : (s.atMatch mlen).fresh = s.fresh := rfl

/-! ### `State.copyMatch` -/

@[simp] theorem State.copyMatch_cfg (mlen : Nat) (s : State) : (s.copyMatch mlen).cfg = s.cfg := rfl
@[simp] theorem State.copyMatch_status (mlen : Nat) (s : State) : (s.copyMatch mlen).status = s.status := rfl
@[simp] theorem State.copyMatch_err (mlen : Nat) (s : State) : (s.copyMatch mlen).err = s.err := rfl
@[simp] theorem State.copyMatch_opr (mlen : Nat) (s : State) : (s.copyMatch mlen).opr = s.opr := rfl
@[simp] theorem State.copyMatch_res (mlen : Nat) (s : State) : (s.copyMatch mlen).res = s.res := rfl
@[simp] theorem State.copyMatch_int (mlen : Nat) (s : State) : (s.copyMatch mlen).int = { s.int with op := w32 (s.int.op.toNat + mlen) } := rfl
@[simp] theorem State.copyMatch_ht (mlen : Nat) (s : State) : (s.copyMatch mlen).ht = s.ht := rfl
@[simp] theorem State.copyMatch_inb (mlen : Nat) (s : State) : (s.copyMatch mlen).inb = s.inb := rfl
@[simp] theorem State.copyMatch_outb (mlen : Nat) (s : State) : (s.copyMatch mlen).outb = copyBack s.outFree s.int.off.toNat mlen s.int.op.toNat s.outb := rfl
@[simp] theorem State.copyMatch_host (mlen : Nat) (s : State) : (s.copyMatch mlen).host = s.host := rfl
@[simp] theorem State.copyMatch_rdData (mlen : Nat) (s : State) : (s.copyMatch mlen).rdData = s.rdData := rfl
@[simp] theorem State.copyMatch_rdBytes (mlen : Nat) (s : State) : (s.copyMatch mlen).rdBytes = s.rdBytes := rfl
@[simp] theorem State.copyMatch_inEpoch (mlen : Nat) (s : State) : (s.copyMatch mlen).inEpoch = s.inEpoch := rfl
@[simp] theorem State.copyMatch_outEpoch (mlen : Nat) (s : State) : (s.copyMatch mlen).outEpoch = s.outEpoch := rfl
@[simp] theorem State.copyMatch_outFreed (mlen : Nat) (s : State) : (s.copyMatch mlen).outFreed = s.outFreed := rfl
@[simp] theorem State.copyMatch_fresh (mlen : Nat) (s : State) : (s.copyMatch mlen).fresh = s.fresh := rfl

/-! ### `State.scratchOut` -/

@[simp] theorem State.scratchOut_cfg (s : State) : s.scratchOut.cfg = s.cfg := rfl
@[simp] theorem State.scratchOut_status (s : State) : s.scratchOut.status = s.status := rfl
@[simp] theorem State.scratchOut_err (s : State) : s.scratchOut.err = s.err := rfl
@[simp] theorem State.scratchOut_opr (s : State) : s.scratchOut.opr = s.opr := rfl
@[simp] theorem State.scratchOut_res (s : State) : s.scratchOut.res = s.res := rfl
@[simp] theorem State.scratchOut_int (s : State) : s.scratchOut.int = s.int := rfl
@[simp] theorem State.scratchOut_ht (s : State) : s.scratchOut.ht = s.ht := rfl
@[simp] theorem State.scratchOut_inb (s : State) : s.scratchOut.inb = s.inb := rfl
@[simp] theorem State.scratchOut_outb (s : State) : s.scratchOut.outb = s.outb.forget s.res.outLen.toNat s.opr.outCap.toNat := rfl
@[simp] theorem State.scratchOut_host (s : State) : s.scratchOut.host = s.host := rfl
@[simp] theorem State.scratchOut_rdData (s : State) : s.scratchOut.rdData = s.rdData := rfl
@[simp] theorem State.scratchOut_rdBytes (s : State) : s.scratchOut.rdBytes = s.rdBytes := rfl
@[simp] theorem State.scratchOut_inEpoch (s : State) : s.scratchOut.inEpoch = s.inEpoch := rfl
@[simp] theorem State.scratchOut_outEpoch (s : State) : s.scratchOut.outEpoch = s.outEpoch := rfl
@[simp] theorem State.scratchOut_outFreed (s : State) : s.scratchOut.outFreed = (s.res.outLen.toNat, s.opr.outCap.toNat) :: s.outFreed := rfl
@[simp] theorem State.scratchOut_fresh (s : State) : s.scratchOut.fresh = s.fresh := rfl

/-! ### `State.freeOut` -/

@[simp] theorem State.freeOut_cfg (lo hi : Nat) (s : State) : (s.freeOut lo hi).cfg = s.cfg := rfl
@[simp] theorem State.freeOut_status (lo hi : Nat) (s : State) : (s.freeOut lo hi).status = s.status := rfl
@[simp] theorem State.freeOut_err (lo hi : Nat) (s : State) : (s.freeOut lo hi).err = s.err := rfl
@[simp] theorem State.freeOut_opr (lo hi : Nat) (s : State) : (s.freeOut lo hi).opr = s.opr := rfl
@[simp] theorem State.freeOut_res (lo hi : Nat) (s : State) : (s.freeOut lo hi).res = s.res := rfl
@[simp] theorem State.freeOut_int (lo hi : Nat) (s : State) : (s.freeOut lo hi).int = s.int := rfl
@[simp] theorem State.freeOut_ht (lo hi : Nat) (s : State) : (s.freeOut lo hi).ht = s.ht := rfl
@[simp] theorem State.freeOut_inb (lo hi : Nat) (s : State) : (s.freeOut lo hi).inb = s.inb := rfl
@[simp] theorem State.freeOut_outb (lo hi : Nat) (s : State) : (s.freeOut lo hi).outb = s.outb.forget lo hi := rfl
@[simp] theorem State.freeOut_host (lo hi : Nat) (s : State) : (s.freeOut lo hi).host = s.host := rfl
@[simp] theorem State.freeOut_rdData (lo hi : Nat) (s : State) : (s.freeOut lo hi).rdData = s.rdData := rfl
@[simp] theorem State.freeOut_rdBytes (lo hi : Nat) (s : State) : (s.freeOut lo hi).rdBytes = s.rdBytes := rfl
@[simp] theorem State.freeOut_inEpoch (lo hi : Nat) (s : State) : (s.freeOut lo hi).inEpoch = s.inEpoch := rfl
@[simp] theorem State.freeOut_outEpoch (lo hi : Nat) (s : State) : (s.freeOut lo hi).outEpoch = s.outEpoch := rfl
@[simp] theorem State.freeOut_outFreed (lo hi : Nat) (s : State) : (s.freeOut lo hi).outFreed = (lo, hi) :: s.outFreed := rfl
@[simp] theorem State.freeOut_fresh (lo hi : Nat) (s : State) : (s.freeOut lo hi).fresh = s.fresh := rfl

/-! ### `State.release` -/

@[simp] theorem State.release_cfg (s : State) : s.release.cfg = s.cfg := rfl
@[simp] theorem State.release_status (s : State) : s.release.status = s.status := rfl
@[simp] theorem State.release_err (s : State) : s.release.err = s.err := rfl
@[simp] theorem State.release_opr (s : State) : s.release.opr = s.opr := rfl
@[simp] theorem State.release_res (s : State) : s.release.res = s.res := rfl
@[simp] theorem State.release_int (s : State) : s.release.int = Internal.released s.cfg.hashLog s.fresh := rfl
@[simp] theorem State.release_ht (s : State) : s.release.ht = s.ht := rfl
@[simp] theorem State.release_inb (s : State) : s.release.inb = s.inb := rfl
@[simp] theorem State.release_outb (s : State) : s.release.outb = s.outb := rfl
@[simp] theorem State.release_host (s : State) : s.release.host = s.host := rfl
@[simp] theorem State.release_rdData (s : State) : s.release.rdData = s.rdData := rfl
@[simp] theorem State.release_rdBytes (s : State) : s.release.rdBytes = s.rdBytes := rfl
@[simp] theorem State.release_inEpoch (s : State) : s.release.inEpoch = s.inEpoch := rfl
@[simp] theorem State.release_outEpoch (s : State) : s.release.outEpoch = s.outEpoch := rfl
@[simp] theorem State.release_outFreed (s : State) : s.release.outFreed = s.outFreed := rfl
@[simp] theorem State.release_fresh (s : State) : s.release.fresh = s.fresh + 1 := rfl

/-! ### `State.startCmd` -/

@[simp] theorem State.startCmd_cfg (c : Cmd) (s : State) : (s.startCmd c).cfg = s.cfg := rfl
@[simp] theorem State.startCmd_status (c : Cmd) (s : State) : (s.startCmd c).status = Status.started c.opcode := rfl
@[simp] theorem State.startCmd_err (c : Cmd) (s : State) : (s.startCmd c).err = .none := rfl
@[simp] theorem State.startCmd_opr (c : Cmd) (s : State) : (s.startCmd c).opr = s.opr := rfl
@[simp] theorem State.startCmd_res (c : Cmd) (s : State) : (s.startCmd c).res = {} := rfl
@[simp] theorem State.startCmd_int (c : Cmd) (s : State) : (s.startCmd c).int = { s.int with point := .entry c } := rfl
@[simp] theorem State.startCmd_ht (c : Cmd) (s : State) : (s.startCmd c).ht = s.ht := rfl
@[simp] theorem State.startCmd_inb (c : Cmd) (s : State) : (s.startCmd c).inb = s.inb := rfl
@[simp] theorem State.startCmd_outb (c : Cmd) (s : State) : (s.startCmd c).outb = s.outb := rfl
@[simp] theorem State.startCmd_host (c : Cmd) (s : State) : (s.startCmd c).host = s.host := rfl
@[simp] theorem State.startCmd_rdData (c : Cmd) (s : State) : (s.startCmd c).rdData = s.rdData := rfl
@[simp] theorem State.startCmd_rdBytes (c : Cmd) (s : State) : (s.startCmd c).rdBytes = s.rdBytes := rfl
@[simp] theorem State.startCmd_inEpoch (c : Cmd) (s : State) : (s.startCmd c).inEpoch = s.inEpoch := rfl
@[simp] theorem State.startCmd_outEpoch (c : Cmd) (s : State) : (s.startCmd c).outEpoch = s.outEpoch := rfl
@[simp] theorem State.startCmd_outFreed (c : Cmd) (s : State) : (s.startCmd c).outFreed = s.outFreed := rfl
@[simp] theorem State.startCmd_fresh (c : Cmd) (s : State) : (s.startCmd c).fresh = s.fresh := rfl

/-! ### `State.endDone` -/

@[simp] theorem State.endDone_cfg (s : State) : s.endDone.cfg = s.cfg := rfl
@[simp] theorem State.endDone_status (s : State) : s.endDone.status = { s.status with state := .done } := rfl
@[simp] theorem State.endDone_err (s : State) : s.endDone.err = s.err := rfl
@[simp] theorem State.endDone_opr (s : State) : s.endDone.opr = s.opr := rfl
@[simp] theorem State.endDone_res (s : State) : s.endDone.res = s.res := rfl
@[simp] theorem State.endDone_int (s : State) : s.endDone.int = Internal.released s.cfg.hashLog s.fresh := rfl
@[simp] theorem State.endDone_ht (s : State) : s.endDone.ht = s.ht := rfl
@[simp] theorem State.endDone_inb (s : State) : s.endDone.inb = s.inb := rfl
@[simp] theorem State.endDone_outb (s : State) : s.endDone.outb = s.outb.forget s.res.outLen.toNat s.opr.outCap.toNat := rfl
@[simp] theorem State.endDone_host (s : State) : s.endDone.host = s.host := rfl
@[simp] theorem State.endDone_rdData (s : State) : s.endDone.rdData = s.rdData := rfl
@[simp] theorem State.endDone_rdBytes (s : State) : s.endDone.rdBytes = s.rdBytes := rfl
@[simp] theorem State.endDone_inEpoch (s : State) : s.endDone.inEpoch = s.inEpoch := rfl
@[simp] theorem State.endDone_outEpoch (s : State) : s.endDone.outEpoch = s.outEpoch := rfl
@[simp] theorem State.endDone_outFreed (s : State) : s.endDone.outFreed = (s.res.outLen.toNat, s.opr.outCap.toNat) :: s.outFreed := rfl
@[simp] theorem State.endDone_fresh (s : State) : s.endDone.fresh = s.fresh + 1 := rfl

/-! ### `State.finish` -/

@[simp] theorem State.finish_cfg (o i : Word) (s : State) : (s.finish o i).cfg = s.cfg := rfl
@[simp] theorem State.finish_status (o i : Word) (s : State) : (s.finish o i).status = { s.status with state := .done } := rfl
@[simp] theorem State.finish_err (o i : Word) (s : State) : (s.finish o i).err = s.err := rfl
@[simp] theorem State.finish_opr (o i : Word) (s : State) : (s.finish o i).opr = s.opr := rfl
@[simp] theorem State.finish_res (o i : Word) (s : State) : (s.finish o i).res = { s.res with outLen := o, inPos := i } := rfl
@[simp] theorem State.finish_int (o i : Word) (s : State) : (s.finish o i).int = Internal.released s.cfg.hashLog s.fresh := rfl
@[simp] theorem State.finish_ht (o i : Word) (s : State) : (s.finish o i).ht = s.ht := rfl
@[simp] theorem State.finish_inb (o i : Word) (s : State) : (s.finish o i).inb = s.inb := rfl
@[simp] theorem State.finish_outb (o i : Word) (s : State) : (s.finish o i).outb = s.outb.forget o.toNat s.opr.outCap.toNat := rfl
@[simp] theorem State.finish_host (o i : Word) (s : State) : (s.finish o i).host = s.host := rfl
@[simp] theorem State.finish_rdData (o i : Word) (s : State) : (s.finish o i).rdData = s.rdData := rfl
@[simp] theorem State.finish_rdBytes (o i : Word) (s : State) : (s.finish o i).rdBytes = s.rdBytes := rfl
@[simp] theorem State.finish_inEpoch (o i : Word) (s : State) : (s.finish o i).inEpoch = s.inEpoch := rfl
@[simp] theorem State.finish_outEpoch (o i : Word) (s : State) : (s.finish o i).outEpoch = s.outEpoch := rfl
@[simp] theorem State.finish_outFreed (o i : Word) (s : State) : (s.finish o i).outFreed = (o.toNat, s.opr.outCap.toNat) :: s.outFreed := rfl
@[simp] theorem State.finish_fresh (o i : Word) (s : State) : (s.finish o i).fresh = s.fresh + 1 := rfl

/-! ### `State.raise` -/

@[simp] theorem State.raise_cfg (e : ErrCode) (o i : Word) (s : State) : (s.raise e o i).cfg = s.cfg := rfl
@[simp] theorem State.raise_status (e : ErrCode) (o i : Word) (s : State) : (s.raise e o i).status = s.status.failed := rfl
@[simp] theorem State.raise_err (e : ErrCode) (o i : Word) (s : State) : (s.raise e o i).err = e := rfl
@[simp] theorem State.raise_opr (e : ErrCode) (o i : Word) (s : State) : (s.raise e o i).opr = s.opr := rfl
@[simp] theorem State.raise_res (e : ErrCode) (o i : Word) (s : State) : (s.raise e o i).res = { s.res with outLen := o, inPos := i } := rfl
@[simp] theorem State.raise_int (e : ErrCode) (o i : Word) (s : State) : (s.raise e o i).int = Internal.released s.cfg.hashLog s.fresh := rfl
@[simp] theorem State.raise_ht (e : ErrCode) (o i : Word) (s : State) : (s.raise e o i).ht = s.ht := rfl
@[simp] theorem State.raise_inb (e : ErrCode) (o i : Word) (s : State) : (s.raise e o i).inb = s.inb := rfl
@[simp] theorem State.raise_outb (e : ErrCode) (o i : Word) (s : State) : (s.raise e o i).outb = s.outb := rfl
@[simp] theorem State.raise_host (e : ErrCode) (o i : Word) (s : State) : (s.raise e o i).host = s.host := rfl
@[simp] theorem State.raise_rdData (e : ErrCode) (o i : Word) (s : State) : (s.raise e o i).rdData = s.rdData := rfl
@[simp] theorem State.raise_rdBytes (e : ErrCode) (o i : Word) (s : State) : (s.raise e o i).rdBytes = s.rdBytes := rfl
@[simp] theorem State.raise_inEpoch (e : ErrCode) (o i : Word) (s : State) : (s.raise e o i).inEpoch = s.inEpoch := rfl
@[simp] theorem State.raise_outEpoch (e : ErrCode) (o i : Word) (s : State) : (s.raise e o i).outEpoch = s.outEpoch := rfl
@[simp] theorem State.raise_outFreed (e : ErrCode) (o i : Word) (s : State) : (s.raise e o i).outFreed = s.outFreed := rfl
@[simp] theorem State.raise_fresh (e : ErrCode) (o i : Word) (s : State) : (s.raise e o i).fresh = s.fresh + 1 := rfl

/-! ### `State.raiseUntouched` -/

@[simp] theorem State.raiseUntouched_cfg (e : ErrCode) (s : State) : (s.raiseUntouched e).cfg = s.cfg := rfl
@[simp] theorem State.raiseUntouched_status (e : ErrCode) (s : State) : (s.raiseUntouched e).status = s.status.failed := rfl
@[simp] theorem State.raiseUntouched_err (e : ErrCode) (s : State) : (s.raiseUntouched e).err = e := rfl
@[simp] theorem State.raiseUntouched_opr (e : ErrCode) (s : State) : (s.raiseUntouched e).opr = s.opr := rfl
@[simp] theorem State.raiseUntouched_res (e : ErrCode) (s : State) : (s.raiseUntouched e).res = { s.res with outLen := 0#32, inPos := 0#32 } := rfl
@[simp] theorem State.raiseUntouched_int (e : ErrCode) (s : State) : (s.raiseUntouched e).int = Internal.released s.cfg.hashLog s.fresh := rfl
@[simp] theorem State.raiseUntouched_ht (e : ErrCode) (s : State) : (s.raiseUntouched e).ht = s.ht := rfl
@[simp] theorem State.raiseUntouched_inb (e : ErrCode) (s : State) : (s.raiseUntouched e).inb = s.inb := rfl
@[simp] theorem State.raiseUntouched_outb (e : ErrCode) (s : State) : (s.raiseUntouched e).outb = s.outb := rfl
@[simp] theorem State.raiseUntouched_host (e : ErrCode) (s : State) : (s.raiseUntouched e).host = s.host := rfl
@[simp] theorem State.raiseUntouched_rdData (e : ErrCode) (s : State) : (s.raiseUntouched e).rdData = s.rdData := rfl
@[simp] theorem State.raiseUntouched_rdBytes (e : ErrCode) (s : State) : (s.raiseUntouched e).rdBytes = s.rdBytes := rfl
@[simp] theorem State.raiseUntouched_inEpoch (e : ErrCode) (s : State) : (s.raiseUntouched e).inEpoch = s.inEpoch := rfl
@[simp] theorem State.raiseUntouched_outEpoch (e : ErrCode) (s : State) : (s.raiseUntouched e).outEpoch = s.outEpoch := rfl
@[simp] theorem State.raiseUntouched_outFreed (e : ErrCode) (s : State) : (s.raiseUntouched e).outFreed = s.outFreed := rfl
@[simp] theorem State.raiseUntouched_fresh (e : ErrCode) (s : State) : (s.raiseUntouched e).fresh = s.fresh + 1 := rfl

/-! ### `State.raiseAtCursors` -/

@[simp] theorem State.raiseAtCursors_cfg (e : ErrCode) (s : State) : (s.raiseAtCursors e).cfg = s.cfg := rfl
@[simp] theorem State.raiseAtCursors_status (e : ErrCode) (s : State) : (s.raiseAtCursors e).status = s.status.failed := rfl
@[simp] theorem State.raiseAtCursors_err (e : ErrCode) (s : State) : (s.raiseAtCursors e).err = e := rfl
@[simp] theorem State.raiseAtCursors_opr (e : ErrCode) (s : State) : (s.raiseAtCursors e).opr = s.opr := rfl
@[simp] theorem State.raiseAtCursors_res (e : ErrCode) (s : State) : (s.raiseAtCursors e).res = { s.res with outLen := s.int.op, inPos := s.int.ip } := rfl
@[simp] theorem State.raiseAtCursors_int (e : ErrCode) (s : State) : (s.raiseAtCursors e).int = Internal.released s.cfg.hashLog s.fresh := rfl
@[simp] theorem State.raiseAtCursors_ht (e : ErrCode) (s : State) : (s.raiseAtCursors e).ht = s.ht := rfl
@[simp] theorem State.raiseAtCursors_inb (e : ErrCode) (s : State) : (s.raiseAtCursors e).inb = s.inb := rfl
@[simp] theorem State.raiseAtCursors_outb (e : ErrCode) (s : State) : (s.raiseAtCursors e).outb = s.outb.forget s.int.op.toNat s.opr.outCap.toNat := rfl
@[simp] theorem State.raiseAtCursors_host (e : ErrCode) (s : State) : (s.raiseAtCursors e).host = s.host := rfl
@[simp] theorem State.raiseAtCursors_rdData (e : ErrCode) (s : State) : (s.raiseAtCursors e).rdData = s.rdData := rfl
@[simp] theorem State.raiseAtCursors_rdBytes (e : ErrCode) (s : State) : (s.raiseAtCursors e).rdBytes = s.rdBytes := rfl
@[simp] theorem State.raiseAtCursors_inEpoch (e : ErrCode) (s : State) : (s.raiseAtCursors e).inEpoch = s.inEpoch := rfl
@[simp] theorem State.raiseAtCursors_outEpoch (e : ErrCode) (s : State) : (s.raiseAtCursors e).outEpoch = s.outEpoch := rfl
@[simp] theorem State.raiseAtCursors_outFreed (e : ErrCode) (s : State) : (s.raiseAtCursors e).outFreed = (s.int.op.toNat, s.opr.outCap.toNat) :: s.outFreed := rfl
@[simp] theorem State.raiseAtCursors_fresh (e : ErrCode) (s : State) : (s.raiseAtCursors e).fresh = s.fresh + 1 := rfl

/-! ### `State.mfClear` -/

@[simp] theorem State.mfClear_cfg (s : State) : s.mfClear.cfg = s.cfg := rfl
@[simp] theorem State.mfClear_status (s : State) : s.mfClear.status = s.status := rfl
@[simp] theorem State.mfClear_err (s : State) : s.mfClear.err = s.err := rfl
@[simp] theorem State.mfClear_opr (s : State) : s.mfClear.opr = s.opr := rfl
@[simp] theorem State.mfClear_res (s : State) : s.mfClear.res = s.res := rfl
@[simp] theorem State.mfClear_int (s : State) : s.mfClear.int = s.int := rfl
@[simp] theorem State.mfClear_ht (s : State) : s.mfClear.ht = [] := rfl
@[simp] theorem State.mfClear_inb (s : State) : s.mfClear.inb = s.inb := rfl
@[simp] theorem State.mfClear_outb (s : State) : s.mfClear.outb = s.outb := rfl
@[simp] theorem State.mfClear_host (s : State) : s.mfClear.host = s.host := rfl
@[simp] theorem State.mfClear_rdData (s : State) : s.mfClear.rdData = s.rdData := rfl
@[simp] theorem State.mfClear_rdBytes (s : State) : s.mfClear.rdBytes = s.rdBytes := rfl
@[simp] theorem State.mfClear_inEpoch (s : State) : s.mfClear.inEpoch = s.inEpoch := rfl
@[simp] theorem State.mfClear_outEpoch (s : State) : s.mfClear.outEpoch = s.outEpoch := rfl
@[simp] theorem State.mfClear_outFreed (s : State) : s.mfClear.outFreed = s.outFreed := rfl
@[simp] theorem State.mfClear_fresh (s : State) : s.mfClear.fresh = s.fresh := rfl

/-! ### `State.mfInsert` -/

@[simp] theorem State.mfInsert_cfg (s : State) (p : Nat) : (s.mfInsert p).cfg = s.cfg := rfl
@[simp] theorem State.mfInsert_status (s : State) (p : Nat) : (s.mfInsert p).status = s.status := rfl
@[simp] theorem State.mfInsert_err (s : State) (p : Nat) : (s.mfInsert p).err = s.err := rfl
@[simp] theorem State.mfInsert_opr (s : State) (p : Nat) : (s.mfInsert p).opr = s.opr := rfl
@[simp] theorem State.mfInsert_res (s : State) (p : Nat) : (s.mfInsert p).res = s.res := rfl
@[simp] theorem State.mfInsert_int (s : State) (p : Nat) : (s.mfInsert p).int = s.int := rfl
@[simp] theorem State.mfInsert_ht (s : State) (p : Nat) : (s.mfInsert p).ht = s.ht.put (s.hashAt p) (w32 p) := rfl
@[simp] theorem State.mfInsert_inb (s : State) (p : Nat) : (s.mfInsert p).inb = s.inb := rfl
@[simp] theorem State.mfInsert_outb (s : State) (p : Nat) : (s.mfInsert p).outb = s.outb := rfl
@[simp] theorem State.mfInsert_host (s : State) (p : Nat) : (s.mfInsert p).host = s.host := rfl
@[simp] theorem State.mfInsert_rdData (s : State) (p : Nat) : (s.mfInsert p).rdData = s.rdData := rfl
@[simp] theorem State.mfInsert_rdBytes (s : State) (p : Nat) : (s.mfInsert p).rdBytes = s.rdBytes := rfl
@[simp] theorem State.mfInsert_inEpoch (s : State) (p : Nat) : (s.mfInsert p).inEpoch = s.inEpoch := rfl
@[simp] theorem State.mfInsert_outEpoch (s : State) (p : Nat) : (s.mfInsert p).outEpoch = s.outEpoch := rfl
@[simp] theorem State.mfInsert_outFreed (s : State) (p : Nat) : (s.mfInsert p).outFreed = s.outFreed := rfl
@[simp] theorem State.mfInsert_fresh (s : State) (p : Nat) : (s.mfInsert p).fresh = s.fresh := rfl

/-! ### `State.mfRegs` -/

@[simp] theorem State.mfRegs_cfg (s : State) (p : Nat) (r : Option (Nat × Nat)) : (s.mfRegs p r).cfg = s.cfg := rfl
@[simp] theorem State.mfRegs_status (s : State) (p : Nat) (r : Option (Nat × Nat)) : (s.mfRegs p r).status = s.status := rfl
@[simp] theorem State.mfRegs_err (s : State) (p : Nat) (r : Option (Nat × Nat)) : (s.mfRegs p r).err = s.err := rfl
@[simp] theorem State.mfRegs_opr (s : State) (p : Nat) (r : Option (Nat × Nat)) : (s.mfRegs p r).opr = s.opr := rfl
@[simp] theorem State.mfRegs_res (s : State) (p : Nat) (r : Option (Nat × Nat)) : (s.mfRegs p r).res = s.res := rfl
@[simp] theorem State.mfRegs_ht (s : State) (p : Nat) (r : Option (Nat × Nat)) : (s.mfRegs p r).ht = s.ht := rfl
@[simp] theorem State.mfRegs_inb (s : State) (p : Nat) (r : Option (Nat × Nat)) : (s.mfRegs p r).inb = s.inb := rfl
@[simp] theorem State.mfRegs_outb (s : State) (p : Nat) (r : Option (Nat × Nat)) : (s.mfRegs p r).outb = s.outb := rfl
@[simp] theorem State.mfRegs_host (s : State) (p : Nat) (r : Option (Nat × Nat)) : (s.mfRegs p r).host = s.host := rfl
@[simp] theorem State.mfRegs_rdData (s : State) (p : Nat) (r : Option (Nat × Nat)) : (s.mfRegs p r).rdData = s.rdData := rfl
@[simp] theorem State.mfRegs_rdBytes (s : State) (p : Nat) (r : Option (Nat × Nat)) : (s.mfRegs p r).rdBytes = s.rdBytes := rfl
@[simp] theorem State.mfRegs_inEpoch (s : State) (p : Nat) (r : Option (Nat × Nat)) : (s.mfRegs p r).inEpoch = s.inEpoch := rfl
@[simp] theorem State.mfRegs_outEpoch (s : State) (p : Nat) (r : Option (Nat × Nat)) : (s.mfRegs p r).outEpoch = s.outEpoch := rfl
@[simp] theorem State.mfRegs_outFreed (s : State) (p : Nat) (r : Option (Nat × Nat)) : (s.mfRegs p r).outFreed = s.outFreed := rfl
@[simp] theorem State.mfRegs_fresh (s : State) (p : Nat) (r : Option (Nat × Nat)) : (s.mfRegs p r).fresh = s.fresh := rfl

/-! ### `State.openRegion` -/

@[simp] theorem State.openRegion_cfg (lo hi winLo ob : Nat) (s : State) : (s.openRegion lo hi winLo ob).cfg = s.cfg := rfl
@[simp] theorem State.openRegion_status (lo hi winLo ob : Nat) (s : State) : (s.openRegion lo hi winLo ob).status = s.status := rfl
@[simp] theorem State.openRegion_err (lo hi winLo ob : Nat) (s : State) : (s.openRegion lo hi winLo ob).err = s.err := rfl
@[simp] theorem State.openRegion_opr (lo hi winLo ob : Nat) (s : State) : (s.openRegion lo hi winLo ob).opr = s.opr := rfl
@[simp] theorem State.openRegion_res (lo hi winLo ob : Nat) (s : State) : (s.openRegion lo hi winLo ob).res = s.res := rfl
@[simp] theorem State.openRegion_ht (lo hi winLo ob : Nat) (s : State) : (s.openRegion lo hi winLo ob).ht = s.ht := rfl
@[simp] theorem State.openRegion_inb (lo hi winLo ob : Nat) (s : State) : (s.openRegion lo hi winLo ob).inb = s.inb := rfl
@[simp] theorem State.openRegion_outb (lo hi winLo ob : Nat) (s : State) : (s.openRegion lo hi winLo ob).outb = s.outb := rfl
@[simp] theorem State.openRegion_host (lo hi winLo ob : Nat) (s : State) : (s.openRegion lo hi winLo ob).host = s.host := rfl
@[simp] theorem State.openRegion_rdData (lo hi winLo ob : Nat) (s : State) : (s.openRegion lo hi winLo ob).rdData = s.rdData := rfl
@[simp] theorem State.openRegion_rdBytes (lo hi winLo ob : Nat) (s : State) : (s.openRegion lo hi winLo ob).rdBytes = s.rdBytes := rfl
@[simp] theorem State.openRegion_inEpoch (lo hi winLo ob : Nat) (s : State) : (s.openRegion lo hi winLo ob).inEpoch = s.inEpoch := rfl
@[simp] theorem State.openRegion_outEpoch (lo hi winLo ob : Nat) (s : State) : (s.openRegion lo hi winLo ob).outEpoch = s.outEpoch := rfl
@[simp] theorem State.openRegion_outFreed (lo hi winLo ob : Nat) (s : State) : (s.openRegion lo hi winLo ob).outFreed = s.outFreed := rfl
@[simp] theorem State.openRegion_fresh (lo hi winLo ob : Nat) (s : State) : (s.openRegion lo hi winLo ob).fresh = s.fresh := rfl

/-! ### `State.emit` -/

@[simp] theorem State.emit_cfg (bs : List Byte) (s : State) : (s.emit bs).cfg = s.cfg := rfl
@[simp] theorem State.emit_status (bs : List Byte) (s : State) : (s.emit bs).status = s.status := rfl
@[simp] theorem State.emit_err (bs : List Byte) (s : State) : (s.emit bs).err = s.err := rfl
@[simp] theorem State.emit_opr (bs : List Byte) (s : State) : (s.emit bs).opr = s.opr := rfl
@[simp] theorem State.emit_res (bs : List Byte) (s : State) : (s.emit bs).res = s.res := rfl
@[simp] theorem State.emit_int (bs : List Byte) (s : State) : (s.emit bs).int = { s.int with op := w32 (s.int.op.toNat + bs.length) } := rfl
@[simp] theorem State.emit_ht (bs : List Byte) (s : State) : (s.emit bs).ht = s.ht := rfl
@[simp] theorem State.emit_inb (bs : List Byte) (s : State) : (s.emit bs).inb = s.inb := rfl
@[simp] theorem State.emit_outb (bs : List Byte) (s : State) : (s.emit bs).outb = s.outb.writeBytes s.int.op.toNat bs := rfl
@[simp] theorem State.emit_host (bs : List Byte) (s : State) : (s.emit bs).host = s.host := rfl
@[simp] theorem State.emit_rdData (bs : List Byte) (s : State) : (s.emit bs).rdData = s.rdData := rfl
@[simp] theorem State.emit_rdBytes (bs : List Byte) (s : State) : (s.emit bs).rdBytes = s.rdBytes := rfl
@[simp] theorem State.emit_inEpoch (bs : List Byte) (s : State) : (s.emit bs).inEpoch = s.inEpoch := rfl
@[simp] theorem State.emit_outEpoch (bs : List Byte) (s : State) : (s.emit bs).outEpoch = s.outEpoch := rfl
@[simp] theorem State.emit_outFreed (bs : List Byte) (s : State) : (s.emit bs).outFreed = s.outFreed := rfl
@[simp] theorem State.emit_fresh (bs : List Byte) (s : State) : (s.emit bs).fresh = s.fresh := rfl

end Sys2Proof.Machine
end

