-- ==== Sys2Proof/Laws/Ops.lean ====
section
/-! SUPPORT. For each shared operation, once, everything it can do. -/

namespace Sys2Proof.Machine

/-! ### Words -/

theorem toNat_w32 {n : Nat} (h : n < 2 ^ 32) : (w32 n).toNat = n := by
  rw [BitVec.toNat_ofNat, Nat.mod_eq_of_lt h]

/-! ### Buffers -/

theorem State.inBytes_length (s : State) (a n : Nat) : (s.inBytes a n).length = n := by simp [State.inBytes]

theorem State.outBytes_length (s : State) (a n : Nat) : (s.outBytes a n).length = n := by simp [State.outBytes]

theorem State.inBytes_getElem (s : State) (a n i : Nat) (h : i < n) :
    (s.inBytes a n)[i]? = some (s.inByte (a + i)) := by
  simp [State.inBytes, h]

theorem State.outBytes_getElem (s : State) (a n i : Nat) (h : i < n) :
    (s.outBytes a n)[i]? = some (s.outByte (a + i)) := by
  simp [State.outBytes, h]

/-- What `OUT` reads as after a `MemWrite`. -/
theorem State.outByte_outWrite (s : State) (a : Nat) (bs : List Byte) (i : Nat) :
    (s.outWrite a bs).outByte i = if a ≤ i ∧ i < a + bs.length then bs.getD (i - a) 0#8 else s.outByte i := by
  simp only [State.outByte, outByteOf, State.outWrite, Memory.read_writeBytes]
  split_ifs with h
  · have hlt : i - a < bs.length := by omega
    simp [List.getD, List.getElem?_eq_getElem hlt]
  · rfl

/-- What `IN` reads as after a host write. -/
theorem State.inByte_inWrite (s : State) (a : Nat) (bs : List Byte) (i : Nat) :
    (s.inWrite a bs).inByte i = if a ≤ i ∧ i < a + bs.length then bs.getD (i - a) 0#8 else s.inByte i := by
  simp only [State.inByte, State.inWrite, Memory.read_writeBytes]
  split_ifs with h
  · have hlt : i - a < bs.length := by omega
    simp [List.getD, List.getElem?_eq_getElem hlt]
  · rfl

/-- What the bytes of `OUT` are after some have lost their content: those of the range unspecified, every other one as
before, whether it had a content or not. -/
theorem State.freeOut_cases (s : State) (lo hi a : Nat) :
    (lo ≤ a ∧ a < hi ∧ (s.freeOut lo hi).outb.read a = none)
      ∨ ((a < lo ∨ hi ≤ a) ∧ (s.freeOut lo hi).outb.read a = s.outb.read a
        ∧ (s.freeOut lo hi).outByte a = s.outByte a) := by
  by_cases h : lo ≤ a ∧ a < hi
  · refine .inl ⟨h.1, h.2, ?_⟩
    simp [State.freeOut, Memory.read_forget, h]
  · have h' : a < lo ∨ hi ≤ a := by omega
    have hr : (s.freeOut lo hi).outb.read a = s.outb.read a := by
      simp only [State.freeOut, Memory.read_forget, if_neg h]
    have hf : (s.freeOut lo hi).outFree a = s.outFree a := by
      have : (decide (lo ≤ a) && decide (a < hi)) = false := by simpa using h
      simp [State.outFree, State.freeOut, this]
    exact .inr ⟨h', hr, by simp only [State.outByte, outByteOf, hr, hf]⟩

/-! ### The status -/

/-- Error entry keeps every field of `STATUS` but `STATE` and, in a frame command, `FSM` and `FSM_AT`. -/
theorem Status.failed_cases (st : Status) :
    (st.frameCmd = true ∧ st.failed = { st with fsmAt := st.fsm, fsm := .failed, state := .error })
      ∨ (st.frameCmd = false ∧ st.failed = { st with state := .error }) := by
  cases h : st.frameCmd <;> simp [Status.failed, h]

@[simp] theorem Status.failed_state (st : Status) : st.failed.state = .error := by
  rcases st.failed_cases with ⟨-, h⟩ | ⟨-, h⟩ <;> rw [h]

@[simp] theorem Status.failed_lastCmd (st : Status) : st.failed.lastCmd = st.lastCmd := by
  rcases st.failed_cases with ⟨-, h⟩ | ⟨-, h⟩ <;> rw [h]

@[simp] theorem Status.failed_stored (st : Status) : st.failed.stored = st.stored := by
  rcases st.failed_cases with ⟨-, h⟩ | ⟨-, h⟩ <;> rw [h]

@[simp] theorem Status.failed_found (st : Status) : st.failed.found = st.found := by
  rcases st.failed_cases with ⟨-, h⟩ | ⟨-, h⟩ <;> rw [h]

/-- Outside a command the engine stands at no point of one. -/
@[simp] theorem Internal.released_point (hashLog k : Nat) : (Internal.released hashLog k).point = .idle := rfl

/-! ### The decoder's steps -/

/-- `over` raises one of two errors, each exactly when its limit is passed (R142). -/
theorem Internal.over_cases (i : Internal) (n : Nat) :
    (i.over n = none ∧ n ≤ i.limBlk.toNat ∧ ∀ b, i.limBuf = some b → n ≤ b.toNat)
      ∨ (i.over n = some .malformedSequence ∧ i.limBlk.toNat < n)
      ∨ (i.over n = some .insufficientOutputSpace ∧ n ≤ i.limBlk.toNat ∧ ∃ b, i.limBuf = some b ∧ b.toNat < n) := by
  unfold Internal.over
  by_cases h : i.limBlk.toNat < n
  · exact .inr (.inl ⟨if_pos h, h⟩)
  · rw [if_neg h]
    cases hb : i.limBuf with
    | none => exact .inl ⟨rfl, by omega, by simp⟩
    | some b =>
      by_cases h2 : b.toNat < n
      · exact .inr (.inr ⟨if_pos h2, by omega, b, rfl, h2⟩)
      · exact .inl ⟨if_neg h2, by omega, fun b' hb' => by cases hb'; omega⟩

/-- The literal step: past a limit, an error with `ip` after the length and nothing copied; else the literals copied
and both cursors past them. -/
theorem State.litStep_cases (t : Byte) (lit : List Byte) (s : State) :
    (∃ e, s.int.over (s.int.op.toNat + lit.length) = some e
        ∧ s.litStep t lit = .error ((s.atLits t lit.length).raiseAtCursors e))
      ∨ (s.int.over (s.int.op.toNat + lit.length) = none
        ∧ s.litStep t lit = .ok ((s.atLits t lit.length).copyLits lit)) := by
  unfold State.litStep
  cases h : s.int.over (s.int.op.toNat + lit.length) with
  | none => exact .inr ⟨rfl, rfl⟩
  | some e => exact .inl ⟨e, rfl, rfl⟩

/-- The offset step: an offset of 0 or one behind the first available byte is an error; else only registers move. -/
theorem State.offStep_cases (off : BitVec 16) (s : State) :
    ((off = 0 ∨ s.int.op.toNat - s.int.histLo.toNat < off.toNat)
        ∧ s.offStep off = .error ((s.atOff off).raiseAtCursors .malformedSequence))
      ∨ (off ≠ 0 ∧ off.toNat ≤ s.int.op.toNat - s.int.histLo.toNat ∧ s.offStep off = .ok (s.atOff off)) := by
  by_cases h : off = 0 ∨ s.int.op.toNat - s.int.histLo.toNat < off.toNat
  · exact .inl ⟨h, if_pos h⟩
  · exact .inr ⟨fun h0 => h (.inl h0), by_contra fun h1 => h (.inr (by omega)), if_neg h⟩

/-- The match step: past a limit, an error with nothing copied; else the match copied and `op` past it. -/
theorem State.matchStep_cases (mlen : Nat) (s : State) :
    (∃ e, s.int.over (s.int.op.toNat + mlen) = some e
        ∧ s.matchStep mlen = .error ((s.atMatch mlen).raiseAtCursors e))
      ∨ (s.int.over (s.int.op.toNat + mlen) = none ∧ s.matchStep mlen = .ok ((s.atMatch mlen).copyMatch mlen)) := by
  unfold State.matchStep
  cases h : s.int.over (s.int.op.toNat + mlen) with
  | none => exact .inr ⟨rfl, rfl⟩
  | some e => exact .inl ⟨e, rfl, rfl⟩

/-! ### The engine -/

/-- What the engine does when it reads an element is the element's meaning. -/
theorem exec_element {i : Instr} (h : i.site ≠ .cmd) (s : State) : exec i s = .next (elementState i s) := by
  cases i <;> first | rfl | exact absurd rfl h

/-- An instruction is read at its own site. -/
theorem decodeOpcode_site {b : Byte} {i : Instr} (h : decodeOpcode b = .ok i) : i.site = .cmd := by
  simp only [decodeOpcode] at h
  split_ifs at h <;> cases h <;> rfl

theorem decodeAfterLits_site {t : Byte} {lit bs : List Byte} {i : Instr} (h : decodeAfterLits t lit bs = .ok i) :
    i.site = .token := by
  match bs, h with
  | [], h => cases h; rfl
  | [_], h => cases h
  | b0 :: b1 :: bs, h =>
    simp only [decodeAfterLits] at h
    split at h
    · cases h
    · split at h <;> cases h
      rfl

theorem decodeToken_site {bs : List Byte} {i : Instr} (h : decodeToken bs = .ok i) : i.site = .token := by
  match bs, h with
  | [], h => cases h
  | t :: bs, h =>
    simp only [decodeToken] at h
    split at h
    · cases h
    · cases h
    · split at h
      · cases h
      · exact decodeAfterLits_site h

/-- What a site decodes to is an instruction of that site. -/
theorem decode_site {site : Site} {bs : List Byte} {i : Instr} (h : decode site bs = .ok i) : i.site = site := by
  cases site
  case cmd => cases bs with
    | nil => cases h
    | cons b bs => exact decodeOpcode_site h
  case token => exact decodeToken_site h
  case magic =>
    simp only [decode] at h
    split_ifs at h
    cases h; rfl
  case flg => cases bs with
    | nil => cases h
    | cons b bs =>
      simp only [decode, decodeFlg] at h
      split_ifs at h
      cases h; rfl
  case bd => cases bs with
    | nil => cases h
    | cons b bs =>
      simp only [decode, decodeBd] at h
      split_ifs at h
      cases h; rfl
  case hc => cases bs with
    | nil => cases h
    | cons b bs => cases h; rfl
  case block =>
    simp only [decode, takeLe] at h
    split_ifs at h <;> cases h
    unfold decodeBlockWord
    split_ifs <;> rfl
  all_goals
    simp only [decode, takeLe] at h
    split_ifs at h <;> cases h
    rfl

/-- No point of a command's pseudocode reads an opcode. -/
theorem Point.site_ne_cmd {p : Point} {site : Site} (h : p.site = some site) : site ≠ .cmd := by
  cases p <;> cases h <;> exact nofun

/-- The engine's step where the pseudocode reads an element. -/
theorem engineStep_element {s : State} {site : Site} (h : s.int.point.site = some site) :
    engineStep s = readElement site s := by
  unfold engineStep
  revert h
  cases s.int.point <;> intro h <;> cases h <;> rfl

/-- The running command's step, which decodes and executes elements, is the engine's step. -/
theorem runStep_eq (s : State) : runStep s = .next (engineStep s) := by
  unfold runStep
  split
  · next site hs =>
    rw [engineStep_element hs, readElement]
    cases hi : decode site (s.fetchBytes site) with
    | ok i => exact exec_element (decode_site hi ▸ Point.site_ne_cmd hs) s
    | error r => rfl
  · rfl

/-- A running command's step is the engine's step. -/
theorem runEngine_succ (k : Nat) (s : State) :
    runEngine (k + 1) s = if s.busy then runEngine k (engineStep s) else s := rfl

theorem runEngine_of_not_busy (k : Nat) {s : State} (h : s.busy = false) : runEngine k s = s := by
  cases k <;> simp [runEngine, h]

theorem runEngine_add (j k : Nat) (s : State) : runEngine (j + k) s = runEngine k (runEngine j s) := by
  induction j generalizing s with
  | zero => simp [runEngine]
  | succ j ih =>
    rw [Nat.succ_add, runEngine_succ, runEngine_succ]
    cases h : s.busy with
    | true => simpa [h] using ih (engineStep s)
    | false => simp [runEngine_of_not_busy k h]

/-- A fact of the state that every step of the engine keeps is a fact of the state in which it stops. -/
theorem runEngine_induct {p : State → Prop} (hp : ∀ s, s.busy = true → p s → p (engineStep s)) (k : Nat) {s : State}
    (h : p s) : p (runEngine k s) := by
  induction k generalizing s with
  | zero => exact h
  | succ k ih =>
    rw [runEngine_succ]
    split_ifs with hb
    · exact ih (hp s hb h)
    · exact h

end Sys2Proof.Machine
end

