-- ==== Sys2Proof/Laws/Params.lean ====
section
/-! SUPPORT. No operation of the engine changes what the engine is given, so a step, which passes that to the engine and
puts it beside the engine's answer again, is `machineStep` (10_state.md rule R24). -/

namespace Sys2Proof.Machine

/-! ### The units -/

/-- The two outcomes of a decoder's step keep what the engine is given. -/
theorem litStep_given (t : Byte) (lit : List Byte) (s : State) : (stateOf (s.litStep t lit)).toGiven = s.toGiven := by
  rcases s.litStep_cases t lit with ⟨e, -, h⟩ | ⟨-, h⟩ <;> rw [h] <;> rfl

theorem offStep_given (off : BitVec 16) (s : State) : (stateOf (s.offStep off)).toGiven = s.toGiven := by
  rcases s.offStep_cases off with ⟨-, h⟩ | ⟨-, -, h⟩ <;> rw [h] <;> rfl

theorem matchStep_given (mlen : Nat) (s : State) : (stateOf (s.matchStep mlen)).toGiven = s.toGiven := by
  rcases s.matchStep_cases mlen with ⟨e, -, h⟩ | ⟨-, h⟩ <;> rw [h] <;> rfl

/-- What keeps what the engine is given at each of two steps in a row keeps them. -/
theorem bind_given {x : Except State State} {f : State → Except State State} {c : Given} (hx : (stateOf x).toGiven = c)
    (hf : ∀ u, u.toGiven = c → (stateOf (f u)).toGiven = c) : (stateOf (x >>= f)).toGiven = c := by
  cases x with
  | error e => exact hx
  | ok u => exact hf u hx

theorem seqState_given (lit : List Byte) (off : BitVec 16) (mlen : Nat) (s : State) :
    (seqState lit off mlen s).toGiven = s.toGiven :=
  bind_given (litStep_given ..) fun _ hu => bind_given ((offStep_given ..).trans hu) fun _ hv => (matchStep_given ..).trans hv

theorem rejectToken_given (r : Reject) (s : State) : (rejectToken r s).toGiven = s.toGiven := by
  cases r with
  | offShort t lit => exact bind_given (litStep_given ..) fun _ hu => hu
  | offZero t lit => exact bind_given (litStep_given ..) fun _ hu => (offStep_given ..).trans hu
  | matchExtShort t lit off used =>
    exact bind_given (litStep_given ..) fun _ hu => bind_given ((offStep_given ..).trans hu) fun _ hv => hv
  | matchExtOver t lit off used =>
    exact bind_given (litStep_given ..) fun _ hu => bind_given ((offStep_given ..).trans hu) fun _ hv => hv
  | _ => rfl

theorem closeFrame_given (s : State) : (closeFrame s).toGiven = s.toGiven := by
  unfold closeFrame; split_ifs <;> rfl

theorem terminalState_given (s : State) : (terminalState s).toGiven = s.toGiven := by
  unfold terminalState; split_ifs <;> rfl

theorem lastState_given (lit : List Byte) (mc : BitVec 4) (s : State) : (lastState lit mc s).toGiven = s.toGiven :=
  bind_given (litStep_given ..) fun u hu => (terminalState_given u).trans hu

theorem bdState_given (b : Byte) (s : State) : (bdState b s).toGiven = s.toGiven := by
  simp only [bdState]; split_ifs <;> rfl

theorem afterCsize_given (s : State) : (afterCsize s).toGiven = s.toGiven := by
  unfold afterCsize; split_ifs <;> rfl

theorem hcState_given (h : Byte) (s : State) : (hcState h s).toGiven = s.toGiven := by
  simp only [hcState]; split_ifs <;> first | rfl | exact afterCsize_given _

theorem startPayload_given (s : State) : (startPayload s).toGiven = s.toGiven := by
  simp only [startPayload, storedPayload]; split_ifs <;> rfl

theorem bsizeState_given (stored : Bool) (size : BitVec 31) (s : State) : (bsizeState stored size s).toGiven = s.toGiven := by
  simp only [bsizeState]; split_ifs <;> first | rfl | exact startPayload_given _

theorem bckState_given (k : Word) (s : State) : (bckState k s).toGiven = s.toGiven := by
  unfold bckState; split_ifs <;> first | rfl | exact startPayload_given _

theorem endmarkState_given (s : State) : (endmarkState s).toGiven = s.toGiven := by
  simp only [endmarkState]; split_ifs <;> first | rfl | exact closeFrame_given _

theorem cckState_given (k : Word) (s : State) : (cckState k s).toGiven = s.toGiven := by
  simp only [cckState]; split_ifs <;> first | rfl | exact closeFrame_given _

theorem elementState_given (i : Instr) (s : State) : (elementState i s).toGiven = s.toGiven := by
  cases i with
  | seq lit off mlen => exact seqState_given ..
  | last lit mc => exact lastState_given ..
  | bd code => exact bdState_given ..
  | csize v => exact afterCsize_given _
  | hc h => exact hcState_given ..
  | bsize stored size => exact bsizeState_given ..
  | bck k => exact bckState_given ..
  | endmark => exact endmarkState_given s
  | cck k => exact cckState_given ..
  | _ => rfl

theorem rejectElement_given (r : Reject) (s : State) : (rejectElement r s).toGiven = s.toGiven := by
  cases r <;> first | rfl | exact bdState_given .. | exact rejectToken_given ..

theorem readElement_given (site : Site) (s : State) : (readElement site s).toGiven = s.toGiven := by
  unfold readElement; split <;> first | exact elementState_given .. | exact rejectElement_given ..

theorem matchResult_given (r : Option (Nat × Nat)) (s : State) : (s.matchResult r).toGiven = s.toGiven := by
  rcases r with _ | ⟨off, len⟩ <;> rfl

theorem enter_given (c : Cmd) (s : State) : (enter c s).toGiven = s.toGiven := by
  cases c with
  | cbound => rfl
  | mfclr => rfl
  | dframe => rfl
  | cblock => simp only [enter, enterCblock]; split_ifs <;> rfl
  | dblock => simp only [enter, enterDblock]; split_ifs <;> rfl
  | cframe => simp only [enter, enterCframe]; split_ifs <;> rfl
  | mffind =>
    simp only [enter, enterMffind]
    split_ifs
    · rfl
    · exact matchResult_given ..
  | mfins => simp only [enter, enterMfins]; split_ifs <;> rfl

theorem endFrameBlock_given (s : State) : (endFrameBlock s).toGiven = s.toGiven := by
  simp only [endFrameBlock, settlePayload]; split_ifs <;> rfl

theorem mfFind_given (p winLo limit : Nat) (s : State) : (s.mfFind p winLo limit).2.toGiven = s.toGiven := rfl

theorem emitMatch_given (off len : Nat) (s : State) : (s.emitMatch off len).toGiven = s.toGiven := by
  simp only [State.emitMatch]; rfl

theorem scanOne_given (s : State) : (scanOne s).toGiven = s.toGiven := by
  simp only [scanOne]
  split
  · rfl
  · exact emitMatch_given ..

theorem endCblock_given (s : State) : (endCblock s).toGiven = s.toGiven := by
  simp only [endCblock]; split_ifs <;> rfl

theorem scanState_given (s : State) : (scanState s).toGiven = s.toGiven := by
  unfold scanState
  split_ifs
  · exact scanOne_given s
  · exact endFrameBlock_given _
  · exact endCblock_given _

theorem nextBlock_given (s : State) : (nextBlock s).toGiven = s.toGiven := by
  simp only [nextBlock]; split_ifs <;> rfl

theorem writeTrailer_given (s : State) : (writeTrailer s).toGiven = s.toGiven := by
  simp only [writeTrailer]; split_ifs <;> rfl

/-! ### The engine, the host, the step -/

theorem engineStep_given (s : State) : (engineStep s).toGiven = s.toGiven := by
  unfold engineStep
  split <;> first
    | rfl | exact enter_given .. | exact scanState_given s | exact nextBlock_given s | exact writeTrailer_given s
    | exact readElement_given ..

theorem runEngine_given (k : Nat) (s : State) : (runEngine k s).toGiven = s.toGiven :=
  runEngine_induct (p := fun u => u.toGiven = s.toGiven) (fun u _ hu => (engineStep_given u).trans hu) k rfl

theorem runCommand_given (c : Cmd) (s : State) : (runCommand c s).toGiven = s.toGiven := by
  unfold runCommand; split_ifs
  · rfl
  · exact runEngine_given ..

theorem abandon_given (s : State) : s.abandon.toGiven = s.toGiven := by
  simp only [State.abandon]; split_ifs <;> rfl

theorem exec_given {i : Instr} {s t : State} (h : exec i s = .next t) : t.toGiven = s.toGiven := by
  by_cases hs : i.site = .cmd
  · cases i <;> first
      | (cases h; first | exact runCommand_given .. | exact abandon_given s)
      | cases hs
  · rw [exec_element hs] at h
    cases h
    exact elementState_given ..

theorem reservedWrite_given (b : Byte) (s : State) : (reservedWrite b s).toGiven = s.toGiven := by
  unfold reservedWrite; split_ifs <;> rfl

theorem writeCmd_given {v : Word} {s t : State} (h : writeCmd v s = .next t) : t.toGiven = s.toGiven := by
  unfold writeCmd at h
  split at h
  · exact exec_given h
  · cases h; exact reservedWrite_given ..

theorem startCmdWrite_given {v : Word} {s t : State} (h : startCmdWrite v s = .next t) : t.toGiven = s.toGiven := by
  unfold startCmdWrite at h
  split at h
  · split at h
    · split_ifs at h <;> cases h <;> rfl
    · exact exec_given h
  · cases h; exact reservedWrite_given ..

/-- The engine's part of an outcome beside what it was given is the outcome, where that is unchanged. -/
theorem withGiven_engineOf {o : Host.Outcome State Fault Refusal} {g : Given} (h : ∀ t, o = .next t → t.toGiven = g) :
    withGiven g (engineOf o) = o := by
  cases o with
  | next t => rw [← h t rfl]; rfl
  | fault f => rfl
  | refused r => rfl

/-- A step, which passes to the engine what R24 says, is `machineStep`. -/
theorem step_eq_machineStep (s : State) : step s = machineStep s := by
  unfold step stepState machineStep
  split
  · next h =>
    rw [h]
    refine withGiven_engineOf (o := if s.busy then runStep s else .next s) fun t ht => ?_
    split_ifs at ht
    · rw [runStep_eq] at ht; cases ht; exact engineStep_given s
    · cases ht; rfl
  · next a rest h =>
    rw [h]
    dsimp only
    split
    · next v => exact withGiven_engineOf (o := writeCmd v { s with host := rest }) fun t ht => writeCmd_given ht
    · next v => exact withGiven_engineOf (o := startCmdWrite v { s with host := rest }) fun t ht => startCmdWrite_given ht
    · rfl

end Sys2Proof.Machine
end

