-- ==== Sys2Proof/Laws/PerInstr.lean ====
section
/-! SUPPORT. Families of facts about instructions as syntax, one lemma per constructor. -/

namespace Sys2Proof

/-- `enc_len` writes as many bytes as `e(V)` says (R66, R71). -/
theorem encLen_length (v : Nat) : (encLen v).length = extLen v := by
  unfold encLen extLen
  split_ifs <;> simp

theorem leBytes_length (k n : Nat) : (leBytes k n).length = k := by
  induction k generalizing n with
  | zero => rfl
  | succ k ih => simp [leBytes, ih]

namespace Laws.EncodingSize

/-- The encoding of an instruction is as long as the spec says: R60 for a command, R71 for a sequence, R73 for a part of
a frame; and never empty. -/
def Statement (i : Instr) : Prop := (encode i).length = i.size ∧ 0 < i.size

theorem cbound : Statement .cbound := ⟨rfl, Nat.one_pos⟩
theorem cblock : Statement .cblock := ⟨rfl, Nat.one_pos⟩
theorem dblock : Statement .dblock := ⟨rfl, Nat.one_pos⟩
theorem cframe : Statement .cframe := ⟨rfl, Nat.one_pos⟩
theorem dframe : Statement .dframe := ⟨rfl, Nat.one_pos⟩
theorem mfclr : Statement .mfclr := ⟨rfl, Nat.one_pos⟩
theorem mffind : Statement .mffind := ⟨rfl, Nat.one_pos⟩
theorem mfins : Statement .mfins := ⟨rfl, Nat.one_pos⟩
theorem abort : Statement .abort := ⟨rfl, Nat.one_pos⟩
theorem seq (lit : List Byte) (off : BitVec 16) (mlen : Nat) : Statement (.seq lit off mlen) := by
  constructor
  · simp only [encode, encodeSeq, Instr.size, List.length_append, List.length_cons, encLen_length, leBytes_length]
    omega
  · simp only [Instr.size]; omega
theorem last (lit : List Byte) (mc : BitVec 4) : Statement (.last lit mc) := by
  constructor
  · simp only [encode, encodeLast, Instr.size, List.length_append, List.length_cons, encLen_length]
    omega
  · simp only [Instr.size]; omega
theorem magic : Statement .magic := ⟨rfl, Nat.succ_pos 3⟩
theorem flg (indep bck csz cck rsv did : Bool) : Statement (.flg indep bck csz cck rsv did) := ⟨rfl, Nat.one_pos⟩
theorem bd (code : BitVec 3) : Statement (.bd code) := ⟨rfl, Nat.one_pos⟩
theorem csize (v : BitVec 64) : Statement (.csize v) := ⟨leBytes_length 8 _, Nat.succ_pos 7⟩
theorem dictid (v : Word) : Statement (.dictid v) := ⟨leBytes_length 4 _, Nat.succ_pos 3⟩
theorem hc (h : Byte) : Statement (.hc h) := ⟨rfl, Nat.one_pos⟩
theorem bsize (stored : Bool) (size : BitVec 31) : Statement (.bsize stored size) :=
  ⟨leBytes_length 4 _, Nat.succ_pos 3⟩
theorem bck (k : Word) : Statement (.bck k) := ⟨leBytes_length 4 _, Nat.succ_pos 3⟩
theorem endmark : Statement .endmark := ⟨rfl, Nat.succ_pos 3⟩
theorem cck (k : Word) : Statement (.cck k) := ⟨leBytes_length 4 _, Nat.succ_pos 3⟩

end Laws.EncodingSize

end Sys2Proof
end

