-- ==== Sys2Proof/Tests/Slice0.lean ====
section
/-! SUPPORT. Tests: ill-formed terms refused, words written out from the spec's encodings, the worked examples of the
rules, and for each statement a state and operands that meet its hypotheses, clause by clause. -/

namespace Sys2Proof.Tests

open Sys2Proof Sys2Proof.Machine

/-! ### Helpers -/

/-- The state of a next outcome. -/
def after : Host.Outcome State Fault Refusal → State
  | .next s => s
  | .fault _ => State.reset
  | .refused _ => State.reset

/-- The machine after reset with an input, its length, and `OUT_CAP`. -/
def load (bs : List Byte) (cap : Nat) : State :=
  { State.reset with
    inb := Memory.writeBytes [] 0 bs, opr := { State.reset.opr with inLen := w32 bs.length, outCap := w32 cap } }

/-- `load` with `EXP_LEN`. -/
def loadExp (bs : List Byte) (cap exp : Nat) : State :=
  { load bs cap with opr := { (load bs cap).opr with expLen := w32 exp } }

/-- `load` with the operands of the match finder. -/
def loadFind (bs : List Byte) (pos winLo limit : Nat) : State :=
  { load bs 0 with opr := { (load bs 0).opr with pos := w32 pos, winLo := w32 winLo, limit := w32 limit } }

/-- The bytes of letters. -/
def text (s : String) : List Byte := s.toList.map fun c => BitVec.ofNat 8 c.toNat

/-- A running command at a point of its pseudocode. -/
def running (s : State) (op : Byte) (f : Fsm) (i : Internal) : State :=
  { s with status := { state := .busy, fsm := f, lastCmd := op }, int := i }

/-! ### Ill-formed instructions are refused -/

theorem test_wf_last_too_long : (Instr.last [] 0#4).wf = true ∧ ∀ lit mc, 2 ^ 32 ≤ lit.length →
    (Instr.last lit mc).wf = false := by
  refine ⟨by decide, fun lit mc h => ?_⟩
  simp only [Instr.wf]
  exact decide_eq_false (by omega)
theorem test_wf_seq_literals_too_long : ∀ lit, 2 ^ 32 ≤ lit.length → (Instr.seq lit 1#16 4).wf = false := by
  intro lit h
  simp only [Instr.wf, decide_eq_false (show ¬lit.length < 2 ^ 32 by omega), Bool.false_and]
theorem test_wf_seq_offset_zero : (Instr.seq [] 0#16 4).wf = false := by decide
theorem test_wf_seq_short_match : (Instr.seq [] 1#16 3).wf = false := by decide
theorem test_wf_seq_match_too_long : (Instr.seq [] 1#16 (2 ^ 32)).wf = false := by decide
theorem test_wf_flg_reserved_bit : (Instr.flg true false false false true false).wf = false := by decide
theorem test_wf_bd_code_three : (Instr.bd 3#3).wf = false ∧ (Instr.bd 4#3).wf = true := by decide
theorem test_wf_bsize_zero_word : (Instr.bsize false 0#31).wf = false ∧ (Instr.bsize true 0#31).wf = true := by decide

/-! ### Decoding of words written out from the spec's encodings (R60, R64 to R70, R74 to R83, R89, R192) -/

theorem test_decode_cbound : decode .cmd [0x01#8] = .ok .cbound := by decide
theorem test_decode_cblock : decode .cmd [0x02#8] = .ok .cblock := by decide
theorem test_decode_dblock : decode .cmd [0x03#8] = .ok .dblock := by decide
theorem test_decode_cframe : decode .cmd [0x04#8] = .ok .cframe := by decide
theorem test_decode_dframe : decode .cmd [0x05#8] = .ok .dframe := by decide
theorem test_decode_mfclr : decode .cmd [0x10#8] = .ok .mfclr := by decide
theorem test_decode_mffind : decode .cmd [0x11#8] = .ok .mffind := by decide
theorem test_decode_mfins : decode .cmd [0x12#8] = .ok .mfins := by decide
theorem test_decode_abort : decode .cmd [0x1F#8] = .ok .abort := by decide
theorem test_decode_reserved_opcode : decode .cmd [0x06#8] = .error (.reservedOpcode 0x06#8) := by decide
/-- A literal length of 15 takes the extension byte `00` (R66). -/
theorem test_decode_seq_extended : decode .token ([0xF0#8, 0x00#8] ++ List.replicate 15 0x41#8 ++ [0x02#8, 0x01#8])
    = .ok (.seq (List.replicate 15 0x41#8) 0x0102#16 4) := by decide
/-- `SEQ lit="" off=1 len=19` (R89). -/
theorem test_decode_seq_match_nineteen : decode .token [0x0F#8, 0x01#8, 0x00#8, 0x00#8] = .ok (.seq [] 1#16 19) := by
  decide
theorem test_decode_last : decode .token [0x27#8, 0x41#8, 0x42#8] = .ok (.last [0x41#8, 0x42#8] 7#4) := by decide
theorem test_decode_magic : decode .magic [0x04#8, 0x22#8, 0x4D#8, 0x18#8] = .ok .magic := by decide
/-- `01 1 0 0 1 0 0`: version, independent, content checksum (R75). -/
theorem test_decode_flg : decode .flg [0b01100100#8] = .ok (.flg true false false true false false) := by decide
theorem test_decode_bd : decode .bd [0b01010000#8] = .ok (.bd 5#3) := by decide
theorem test_decode_csize : decode .csize [0x68#8, 0x01#8, 0#8, 0#8, 0#8, 0#8, 0#8, 0x80#8]
    = .ok (.csize 0x8000000000000168#64) := by decide
theorem test_decode_dictid : decode .dictid [0x78#8, 0x56#8, 0x34#8, 0x12#8] = .ok (.dictid 0x12345678#32) := by decide
theorem test_decode_hc : decode .hc [0xC0#8] = .ok (.hc 0xC0#8) := by decide
theorem test_decode_bsize : decode .block [0x1A#8, 0x00#8, 0x00#8, 0x80#8] = .ok (.bsize true 26#31) := by decide
theorem test_decode_bck : decode .bck [0xD0#8, 0x64#8, 0x48#8, 0x04#8] = .ok (.bck 0x044864D0#32) := by decide
theorem test_decode_endmark : decode .block [0#8, 0#8, 0#8, 0#8] = .ok .endmark := by decide
theorem test_decode_cck : decode .cck [0x33#8, 0x80#8, 0xB7#8, 0x81#8] = .ok (.cck 0x81B78033#32) := by decide

/-! ### The worked examples of the rules -/

/-- R161. -/
theorem test_ck32_short : ck32 {} [] = 0x02CC5D05#32 ∧ ck32 {} (text "Hello") = 0xF206D28F#32 := by decide
theorem test_ck32_stripe : ck32 {} (text "0123456789abcdef0") = 0xAA9118BD#32 := by decide
/-- R101: "abcd" hashes to 1584. -/
theorem test_hash_abcd : hashWord {} (u32le [0x61#8, 0x62#8, 0x63#8, 0x64#8]) = 1584 := by decide

/-- R120. -/
theorem test_cbound : (after (exec .cbound { load [] 0 with opr := { inLen := 255#32 } })).res.boundLo = 272#32 := by
  decide
theorem test_cbound_largest :
    (after (exec .cbound { load [] 0 with opr := { inLen := 0xFFFFFFFF#32 } })).res.boundHi = 1#32 := by
  decide

set_option maxRecDepth 20000 in
/-- R121: thirteen times "a". -/
theorem test_cblock : (after (exec .cblock (load (List.replicate 13 0x61#8) 29))).outBytes 0 10
    = [0x13#8, 0x61#8, 0x01#8, 0x00#8, 0x50#8, 0x61#8, 0x61#8, 0x61#8, 0x61#8, 0x61#8] := by decide
/-- R129: empty input. -/
theorem test_cblock_empty : (after (exec .cblock (load [] 16))).status.stored = true := by decide

set_option maxRecDepth 20000 in
/-- R155. -/
theorem test_dblock : (after (exec .dblock (loadExp [0x22#8, 0x41#8, 0x42#8, 0x02#8, 0x00#8, 0x10#8, 0x5A#8] 9 9))).outBytes 0 9
    = text "ABABABABZ" := by decide
theorem test_dblock_no_terminal :
    let t := after (exec .dblock (loadExp [0x10#8, 0x41#8, 0x01#8, 0x00#8] 5 5))
    t.err = .unexpectedEndOfInput ∧ t.res.outLen = 5#32 := by decide

set_option maxRecDepth 20000 in
/-- R89: the empty frame. -/
theorem test_cframe_empty : (after (exec .cframe (load [] 11))).outBytes 0 11
    = [0x04#8, 0x22#8, 0x4D#8, 0x18#8, 0x40#8, 0x40#8, 0xC0#8, 0#8, 0#8, 0#8, 0#8] := by decide
/-- R179 step W1: FLG and BD in their registers. -/
theorem test_cframe_flg_register :
    let s := { load [] 30 with opr := { (load [] 30).opr with options := 0xB#32 } }
    let t := after (step (running s 0x04#8 .none { point := .entry .cframe }))
    t.int.flg = 0x78#8 ∧ t.int.bd = 0x40#8 := by decide
/-- R102, R186: the table is cleared when a frame of linked blocks starts. -/
theorem test_cframe_clears_table :
    (after (step (running { load [] 30 with ht := [(5, 7#32)] } 0x04#8 .none { point := .entry .cframe }))).ht = [] := by
  decide
/-- R181: one byte less is refused. -/
theorem test_cframe_refused : (after (exec .cframe (load [] 10))).err = .insufficientOutputSpace := by decide

set_option maxRecDepth 20000 in
/-- R162: the empty frame. -/
theorem test_dframe_empty :
    let t := after (exec .dframe (load [0x04#8, 0x22#8, 0x4D#8, 0x18#8, 0x40#8, 0x40#8, 0xC0#8, 0#8, 0#8, 0#8, 0#8] 0))
    t.res.desc = 0x00C04040#32 ∧ t.res.inPos = 11#32 ∧ t.status.fsm = .finished := by decide

set_option maxRecDepth 20000 in
/-- R187: an independent block reaches into an earlier one. -/
theorem test_dframe_independent :
    let t := after (exec .dframe (load ([0x04#8, 0x22#8, 0x4D#8, 0x18#8, 0x60#8, 0x40#8, 0x82#8, 6#8, 0#8, 0#8, 0#8, 0x50#8]
      ++ text "abcde" ++ [5#8, 0#8, 0#8, 0#8, 0#8, 5#8, 0#8, 0x10#8, 0x21#8, 0#8, 0#8, 0#8, 0#8]) 10))
    t.err = .malformedSequence ∧ t.res.outLen = 5#32 ∧ t.res.inPos = 24#32 := by decide

/-- R29: after any command the bytes of `OUT` from `OUT_LEN` up to `OUT_CAP` are unspecified, the ones behind it are
not touched (R28). -/
theorem test_mfclr_out : let t := after (exec .mfclr { load [] 1 with outb := [(0, 5#8), (1, 6#8)] })
    t.outb = [(1, 6#8)] := by decide
theorem test_mfclr : (after (exec .mfclr { State.reset with ht := [(5, 7#32)] })).ht = [] := by decide
/-- R105. -/
theorem test_mfins : (after (exec .mfins (load (text "abcd") 0))).ht = [(1584, 0#32)] := by decide
/-- R24: the parameters, `IN` and the opcode are passed to the engine's step; with `HASH_LOG = 1` "abcd" hashes to 0 (R101). -/
theorem test_mfins_parameters_passed :
    let g : Given := { (load (text "abcd") 0).toGiven with cfg := { hashLog := 1 } }
    let o := engineWith g (some (0x12#32, true)) (load (text "abcd") 0).toEngineState
    (after (withGiven g o)).ht = [(0, 0#32)] := by decide
theorem test_mfins_short : (after (exec .mfins (load (text "abc") 0))).err = .illegalCommand := by decide

set_option maxRecDepth 20000 in
/-- R106: position 3, with position 0 in the table. -/
theorem test_mffind :
    let t := after (exec .mffind { loadFind (text "abcabcabcabcabcabcabc") 3 0 16 with ht := [(1280, 0#32)] })
    t.status.found = true ∧ t.res.matchOff = 3#32 ∧ t.res.matchLen = 13#32 ∧ t.ht = [(1280, 3#32)] := by decide
theorem test_mffind_operands : (after (exec .mffind (loadFind (text "abcd") 0 0 3))).err = .illegalCommand := by decide

theorem test_abort :
    let t := after (exec .abort { load (text "abcd") 9 with ht := [(5, 7#32)], err := .illegalCommand })
    t.status.toWord = 0x001F0000#32 ∧ t.ht = [] ∧ t.opr.outCap = 9#32 ∧ t.err = .none := by decide

/-- A decoder in exact mode, four bytes of input, `n` expected. -/
def tok (n : Nat) : State :=
  running (load [0x13#8, 0x61#8, 0x01#8, 0x00#8] 100) 0x03#8 .none
    { point := .tokens, inEnd := 4#32, limBlk := BitVec.ofNat 33 n, exactMode := true }

/-- R89's `13 61 01 00`. -/
theorem test_seq : (after (step (tok 8))).outBytes 0 8 = List.replicate 8 0x61#8 := by decide
theorem test_seq_overrun :
    let t := after (step (tok 7))
    t.err = .malformedSequence ∧ t.res.outLen = 1#32 ∧ t.res.inPos = 4#32 := by decide
theorem test_last_done : (after (exec (.last [0x41#8] 0#4) (tok 1))).status.state = .done := by decide
theorem test_last_short : (after (exec (.last [0x41#8] 0#4) (tok 2))).err = .outputSizeMismatch := by decide

/-- The header of the empty frame, stopped at a point of the reader's pseudocode. -/
def header (p : Point) (ip : Nat) : State :=
  running (load [0x04#8, 0x22#8, 0x4D#8, 0x18#8, 0x40#8, 0x40#8, 0xC0#8, 0#8, 0#8, 0#8, 0#8] 9) 0x05#8 .header
    { point := p, ip := w32 ip, flg := 0x40#8, bd := 0x40#8, bmax := 65536#32 }

theorem test_magic : (after (step (header .magic 0))).int.ip = 4#32 := by decide
theorem test_flg : (after (step (header .flg 4))).int.flg = 0x40#8 := by decide
theorem test_bd : (after (step (header .bd 4))).int.point = .hc := by decide
theorem test_hc : (after (step (header .hc 4))).status.fsm = .blocks := by decide
theorem test_hc_mismatch : (after (exec (.hc 0xC1#8) (header .hc 4))).err = .headerChecksumMismatch := by decide
theorem test_csize : (after (exec (.csize 0x200000001#64) (header .csize 4))).res.csizeHi = 2#32 := by decide
theorem test_dictid : (after (exec (.dictid 0x12345678#32) (header .dictid 4))).res.dictId = 0x12345678#32 := by decide
theorem test_bsize_over : (after (exec (.bsize true 65537#31) (header .block 0))).err = .formatViolation := by decide
theorem test_bsize_stored : (after (exec (.bsize true 3#31) (header .block 0))).outBytes 0 3
    = [0x40#8, 0x40#8, 0xC0#8] := by decide
theorem test_bck : (after (exec (.bck 0x02CC5D05#32) (header .bck 4))).int.point = .tokens := by decide
theorem test_bck_mismatch : (after (exec (.bck 0#32) (header .bck 4))).err = .blockChecksumMismatch := by decide
theorem test_endmark : (after (step (header .block 7))).status.fsm = .finished := by decide
theorem test_cck : (after (exec (.cck 0x02CC5D05#32) (header .cck 4))).status.state = .done := by decide
theorem test_cck_mismatch : (after (exec (.cck 0#32) (header .cck 4))).err = .contentChecksumMismatch := by decide

/-- A command comes from a host's write; with none the engine waits (R26). -/
theorem test_step_command : (after (step (State.reset.withFetchWord 8 0x01))).res.boundLo = 16#32 := by decide
theorem test_step_idle : step State.reset = .next State.reset := by rfl
theorem test_busy_buffer : hostAct (.rdOut 0 1) (tok 8) = .refused (.busyBufferAccess .outBuf) := by rfl
/-- R10, R215: a number above 21 is no register, while Busy as at any time; `POS` is register 7. -/
theorem test_busy_no_register : (after (hostAct (.rd 22) { tok 8 with rdData := 5#32 })).rdData = 0#32 := by decide
theorem test_register_seven : (after (hostAct (.wr 7 5#32) State.reset)).opr.pos = 5#32 := by decide
theorem test_no_such_index : hostAct (.rdIn (2 ^ 32) 1) State.reset = .fault (.noSuchIndex .inBuf (2 ^ 32)) := by rfl

/-! ### Witnesses: states and operands that meet the hypotheses of each statement -/

/-- The frame of a stored and a compressed block, with every option and a dictionary ID. -/
def frame : Frame :=
  { head := { indep := false, bck := true, csz := true, cck := true, did := true, code := 4#3, csize := 9#64
              dictId := 7#32 }
    blocks := [.stored (text "ab"), .compressed [⟨[], 2#16, 5⟩] (text "cd") 9#4] }

theorem witness_RegisterAccess : State.reset.busy = false
    ∧ ((0 = 0 ∨ 21 < 0) ∧ (22 = 0 ∨ 21 < 22)) ∧ (1 ≠ 0 ∧ ¬(3 ≤ 2)) ∧ (3 ≠ 0 ∧ 3 ≤ 9) ∧ 9 ≠ 0 ∧ ¬(10 ≤ 9) := by decide
theorem witness_BusyHostAccess : (tok 8).busy = true ∧ ((3 ≠ 0 ∨ (0x1F#32).toNat % 256 ≠ 0x1F)
    ∧ (0 ≠ 0 ∨ (0x01#32).toNat % 256 ≠ 0x1F)) ∧ (0x20#32).toNat % 256 ≠ 0x1F ∧ 21 < 22 := by decide
theorem witness_HostBufferAccess : State.reset.busy = false ∧ 2 ^ 32 - 1 + [0xAA#8].length ≤ 2 ^ 32
    ∧ 2 ^ 32 - 1 + 1 ≤ 2 ^ 32 := ⟨rfl, by norm_num, by norm_num⟩
theorem witness_OpcodeMapRunsCommands :
    [0x101#32, 2#32, 3#32, 4#32, 5#32, 0x10#32, 0x11#32, 0x12#32, 0xFFFFFF1F#32].map (fun v : Word => v.toNat % 256)
      = [1, 2, 3, 4, 5, 0x10, 0x11, 0x12, 0x1F]
    ∧ State.reset.busy = false
    ∧ ([0#32, 6#32, 0x0F#32, 0x13#32, 0x1E#32, 0x20#32, 0xFF#32].all fun v =>
      decide (v.toNat % 256 ∉ [0x01, 0x02, 0x03, 0x04, 0x05, 0x10, 0x11, 0x12, 0x1F])) = true := by decide
theorem witness_StatusWordAndErrorCodes : { State.reset with err := .illegalCommand, status := { state := .error } }.busy = false := by
  decide
theorem witness_AbortAbandonsSession : State.reset.busy = false ∧ (tok 8).busy = true
    ∧ (tok 8).opr.outCap.toNat ≤ 100 := by decide
theorem witness_MfclrClearsTable : let s := loadFind (text "abcd") 0 0 4
    s.busy = false ∧ s.opr.pos.toNat + 4 ≤ s.opr.limit.toNat ∧ s.opr.limit.toNat ≤ s.opr.inLen.toNat := by decide
theorem witness_HashFormula : Params.wf {} = true ∧ Params.wf { hashLog := 1 } = true
    ∧ Params.wf { hashLog := 32, mfLimit := 9, blockMaxCode := 7 } = true := by decide
theorem witness_MfinsInsertsPosition : let s := loadFind (text "abcde") 1 0 0; let u := loadFind (text "abcde") 2 0 0
    s.busy = false ∧ s.opr.pos.toNat + 4 ≤ s.opr.inLen.toNat
      ∧ u.busy = false ∧ u.opr.inLen.toNat < u.opr.pos.toNat + 4 := by decide

/-- A table with position 0, looked up at position 3 of a repeating input. -/
def found : State := { loadFind (text "abcabcabcabcabcabcabc") 3 0 16 with ht := [(1280, 0#32)] }

set_option maxRecDepth 20000 in
theorem witness_LookupIsLongestAcceptedMatch : 3 + 4 ≤ 16 ∧ 16 ≤ found.opr.inLen.toNat
    ∧ found.mfLookup 3 0 16 = some (3, 13) ∧ found.mfLookup 3 1 16 = none := by decide
set_option maxRecDepth 20000 in
theorem witness_MffindLooksUpThenInserts : found.busy = false
    ∧ (found.opr.pos.toNat + 4 ≤ found.opr.limit.toNat ∧ found.opr.limit.toNat ≤ found.opr.inLen.toNat)
    ∧ found.mfLookup found.opr.pos.toNat found.opr.winLo.toNat found.opr.limit.toNat = some (3, 13)
    ∧ (let s := loadFind (text "abcd") 0 0 4;
      s.opr.pos.toNat + 4 ≤ s.opr.limit.toNat ∧ s.opr.limit.toNat ≤ s.opr.inLen.toNat
        ∧ s.mfLookup s.opr.pos.toNat s.opr.winLo.toNat s.opr.limit.toNat = none)
    ∧ (let s := loadFind (text "abcd") 0 0 3; s.opr.limit.toNat < s.opr.pos.toNat + 4)
    ∧ (let s := loadFind (text "abcd") 0 0 5; s.opr.inLen.toNat < s.opr.limit.toNat) := by decide
set_option maxRecDepth 20000 in
theorem witness_FoundMatchReplays : 3 + 4 ≤ 16 ∧ 16 ≤ found.opr.inLen.toNat ∧ found.mfLookup 3 0 16 = some (3, 13)
    ∧ ∀ i, i < 3 → outByteOf (fun _ => 0#8) (Memory.writeBytes [] 0 (text "abc")) i = found.inByte i := by decide
theorem witness_MatchCopyRepeatsPattern : 1 ≤ 1 ∧ 1 ≤ 1 := by decide
theorem witness_CboundGivesBound : State.reset.busy = false := by decide
theorem witness_CblockChecksSpaceFirst : let s := load (text "abcd") 19; let u := load (text "abcd") 20
    s.cfg.wf = true ∧ s.busy = false ∧ s.opr.outCap.toNat < s.opr.inLen.toNat + s.opr.inLen.toNat / 255 + 16
      ∧ u.cfg.wf = true ∧ u.busy = false
      ∧ u.opr.inLen.toNat + u.opr.inLen.toNat / 255 + 16 ≤ u.opr.outCap.toNat := by decide

/-- Thirteen times "a", with just enough output. -/
def repeated : State := load (List.replicate 13 0x61#8) 29

set_option maxRecDepth 20000 in
theorem witness_CblockEndsDone : repeated.cfg.wf = true ∧ repeated.busy = false
    ∧ repeated.opr.inLen.toNat + repeated.opr.inLen.toNat / 255 + 16 ≤ repeated.opr.outCap.toNat
    ∧ (runCommand .cblock repeated).status.stored = false
    ∧ (load (text "ab") 18).opr.inLen.toNat < (load (text "ab") 18).cfg.mfLimit
    ∧ (runCommand .cblock (load (text "ab") 18)).status.stored = true := by decide
set_option maxRecDepth 20000 in
theorem witness_CblockEmitsLegalBlock : ∃ s t : State, s.cfg.wf = true ∧ s.busy = false ∧ exec .cblock s = .next t
    ∧ t.err = .none ∧ t.status.stored = false :=
  ⟨repeated, runCommand .cblock repeated, by decide, by decide, rfl, by decide, by decide⟩
set_option maxRecDepth 20000 in
theorem witness_BlockRoundTrip : ∃ s t u : State, s.cfg.wf = true ∧ s.busy = false ∧ exec .cblock s = .next t
    ∧ t.err = .none ∧ t.status.stored = false ∧ u.busy = false
    ∧ HasInput u (t.outBytes 0 t.res.outLen.toNat) ∧ u.opr.expLen = s.opr.inLen
    ∧ u.opr.expLen.toNat ≤ u.opr.outCap.toNat :=
  ⟨repeated, runCommand .cblock repeated,
    loadExp [0x13#8, 0x61#8, 0x01#8, 0x00#8, 0x50#8, 0x61#8, 0x61#8, 0x61#8, 0x61#8, 0x61#8] 13 13, by decide,
    by decide, rfl, by decide, by decide, by decide, ⟨by decide, by decide⟩, by decide, by decide⟩

/-- CBLOCK at its first line, and CFRAME between two of its blocks. -/
def opening (p : Point) (op : Byte) (pos : Nat) : State := running repeated op .blocks { point := p, pos := w32 pos, bmax := 4#32 }

theorem witness_RegionsAreOpened :
    (let s := opening (.entry .cblock) 0x02#8 0;
      s.host = [] ∧ s.busy = true ∧ s.int.point = .entry .cblock
        ∧ s.opr.inLen.toNat + s.opr.inLen.toNat / 255 + 16 ≤ s.opr.outCap.toNat)
    ∧ (let s := { opening (.entry .cframe) 0x04#8 0 with opr := { inLen := 13#32, outCap := 200#32, options := 0xF#32 } };
      s.host = [] ∧ s.busy = true ∧ s.int.point = .entry .cframe ∧ s.cfg.wf = true
        ∧ frameBound (2 ^ (8 + 2 * s.cfg.blockMaxCode)) s.opr.inLen.toNat true true true ≤ s.opr.outCap.toNat)
    ∧ (let s := opening .nextBlock 0x04#8 12;
      s.host = [] ∧ s.busy = true ∧ s.int.point = .nextBlock ∧ s.int.pos.toNat < s.opr.inLen.toNat
        ∧ s.int.indep = false)
    ∧ ({ (opening .nextBlock 0x04#8 12).int with indep := true }).indep = true
    ∧ (let s := opening .nextBlock 0x04#8 13;
      s.host = [] ∧ s.busy = true ∧ s.int.point = .nextBlock ∧ s.opr.inLen.toNat ≤ s.int.pos.toNat) := by decide

/-- A region of thirteen times "a" at its second position, with the first one in the table or not. -/
def scanning (op : Byte) (pos anchor ob cur : Nat) (ht : HashTable) : State :=
  let s := running repeated op .blocks
    { point := .scan, pos := w32 pos, anchor := w32 anchor, blkHi := 13#32, mlimit := 8#32, ob := w32 ob, op := w32 cur }
  { s with ht := ht }

/-- Where position 0 stands in the table. -/
def firstEntry : HashTable := [(repeated.hashAt 0, 0#32)]

set_option maxRecDepth 20000 in
theorem witness_ScanAsksTheMatchFinder :
    (let s := scanning 0x02#8 1 0 0 0 firstEntry;
      s.host = [] ∧ s.busy = true ∧ s.int.point = .scan ∧ s.int.pos.toNat + s.cfg.mfLimit ≤ s.int.blkHi.toNat
        ∧ s.mfLookup s.int.pos.toNat s.int.winLo.toNat s.int.mlimit.toNat = some (1, 7)
        ∧ s.cfg.backwardExtend = false ∧ ({ s.cfg with backwardExtend := true }).backwardExtend = true)
    ∧ (let s := scanning 0x02#8 1 0 0 0 [];
      s.host = [] ∧ s.busy = true ∧ s.int.point = .scan ∧ s.int.pos.toNat + s.cfg.mfLimit ≤ s.int.blkHi.toNat
        ∧ s.mfLookup s.int.pos.toNat s.int.winLo.toNat s.int.mlimit.toNat = none) := by decide

set_option maxRecDepth 20000 in
/-- The miss and the hit of R131's kind, step by step: position 1 of thirteen times "a". -/
theorem test_scan_hit : let t := after (step (scanning 0x02#8 1 0 0 0 firstEntry))
    t.outBytes 0 4 = [0x13#8, 0x61#8, 0x01#8, 0x00#8] ∧ t.int.anchor = 8#32 ∧ t.ht = [(repeated.hashAt 0, 1#32)] := by
  decide

theorem witness_RegionsAreClosed :
    (let s := scanning 0x02#8 8 8 0 4 firstEntry;
      let e := encode (.last (s.inBytes s.int.anchor.toNat (s.int.blkHi.toNat - s.int.anchor.toNat)) 0#4);
      s.host = [] ∧ s.busy = true ∧ s.int.point = .scan ∧ s.int.blkHi.toNat < s.int.pos.toNat + s.cfg.mfLimit
        ∧ s.int.ob.toNat ≤ s.int.op.toNat ∧ s.int.op.toNat + e.length ≤ s.opr.outCap.toNat
        ∧ s.int.ob.toNat + (s.int.blkHi.toNat - s.int.blkLo.toNat) + 4 ≤ s.opr.outCap.toNat
        ∧ s.status.lastCmd = 0x02#8 ∧ s.int.ob.toNat = 0 ∧ s.int.blkLo = 0#32 ∧ s.int.blkHi = s.opr.inLen)
    ∧ (let s := scanning 0x04#8 8 8 11 15 firstEntry;
      let e := encode (.last (s.inBytes s.int.anchor.toNat (s.int.blkHi.toNat - s.int.anchor.toNat)) 0#4);
      s.host = [] ∧ s.busy = true ∧ s.int.point = .scan ∧ s.int.blkHi.toNat < s.int.pos.toNat + s.cfg.mfLimit
        ∧ s.int.ob.toNat ≤ s.int.op.toNat ∧ s.int.op.toNat + e.length ≤ s.opr.outCap.toNat
        ∧ s.int.ob.toNat + (s.int.blkHi.toNat - s.int.blkLo.toNat) + 4 ≤ s.opr.outCap.toNat
        ∧ s.status.lastCmd = 0x04#8 ∧ 4 ≤ s.int.ob.toNat
        ∧ (s.outBytes s.int.ob.toNat (s.int.op.toNat - s.int.ob.toNat) ++ e).length < 2 ^ 31
        ∧ s.int.ob.toNat + (s.outBytes s.int.ob.toNat (s.int.op.toNat - s.int.ob.toNat) ++ e).length + 4
          ≤ s.opr.outCap.toNat) := by decide

/-- R155's first block. -/
def fiveA : State := loadExp [0x10#8, 0x41#8, 0x01#8, 0x00#8, 0x00#8] 5 5

theorem witness_DblockDecodesLegalBlock : fiveA.busy = false
    ∧ HasInput fiveA (blockBytes [⟨[0x41#8], 1#16, 4⟩] [] 0#4) ∧ legalSeqs 0 [⟨[0x41#8], 1#16, 4⟩] = true
    ∧ (replay [⟨[0x41#8], 1#16, 4⟩] [] ++ []).length = fiveA.opr.expLen.toNat
    ∧ fiveA.opr.expLen.toNat ≤ fiveA.opr.outCap.toNat :=
  ⟨by decide, ⟨by decide, by decide⟩, by decide, by decide, by decide⟩
theorem witness_DblockDoneOnlyOnLegalBlock : ∃ s t : State, s.busy = false ∧ exec .dblock s = .next t
    ∧ t.status.state = .done := ⟨fiveA, runCommand .dblock fiveA, by decide, rfl, by decide⟩
theorem witness_DblockIsSafe : (loadExp [] 4 5).busy = false
    ∧ (loadExp [] 4 5).opr.outCap.toNat < (loadExp [] 4 5).opr.expLen.toNat := by decide
theorem witness_DblockIsDeterminedByOperands : ∃ s s' t t' : State, s.busy = false ∧ s'.busy = false
    ∧ s'.opr.inLen = s.opr.inLen ∧ s'.opr.expLen = s.opr.expLen ∧ s'.opr.outCap = s.opr.outCap
    ∧ s'.inBytes 0 s.opr.inLen.toNat = s.inBytes 0 s.opr.inLen.toNat ∧ exec .dblock s = .next t
    ∧ exec .dblock s' = .next t' ∧ s'.ht ≠ s.ht :=
  ⟨fiveA, { fiveA with ht := [(3, 1#32)], cfg := { hashLog := 20 } }, _, _, by decide, by decide, rfl, rfl, rfl, rfl,
    rfl, rfl, by decide⟩

theorem witness_SeqCopiesLiteralsAndMatch : (Instr.seq [0x61#8] 1#16 7).wf = true
    ∧ 1 = (tok 8).int.op.toNat + [0x61#8].length
    ∧ (tok 8).int.ip.toNat + (Instr.seq [0x61#8] 1#16 7).size ≤ (tok 8).opr.inLen.toNat
    ∧ (1#16).toNat ≤ 1 - (tok 8).int.histLo.toNat ∧ Room (1 + 7) (tok 8) :=
  ⟨by decide, by decide, by decide, by decide, by decide, by decide, nofun⟩
theorem witness_SeqRefusesBadOffset : [0x61#8].length < 2 ^ 32 ∧ 1 = (tok 8).int.op.toNat + [0x61#8].length
    ∧ (tok 8).int.ip.toNat + (Instr.seq [0x61#8] 2#16 7).size ≤ (tok 8).opr.inLen.toNat ∧ Room 1 (tok 8)
    ∧ (2#16 = 0#16 ∨ 1 - (tok 8).int.histLo.toNat < (2#16).toNat) ∧ 0#16 = 0#16 :=
  ⟨by decide, by decide, by decide, ⟨by decide, by decide, nofun⟩, by decide, rfl⟩

/-- A decoder in bounded mode with `lim_buf`. -/
def bounded (blk buf : Nat) : State :=
  running (load [0x13#8, 0x61#8, 0x01#8, 0x00#8] buf) 0x05#8 .blocks
    { point := .tokens, inEnd := 4#32, limBlk := BitVec.ofNat 33 blk, limBuf := some (w32 buf) }

theorem witness_CopiesStopAtTheLimits : (Instr.seq [0x61#8] 1#16 7).wf = true
    ∧ (∀ s ∈ [tok 0, tok 7, bounded 9 0, bounded 9 7], 1 = s.int.op.toNat + [0x61#8].length
      ∧ s.int.ip.toNat + (Instr.seq [0x61#8] 1#16 7).size ≤ s.opr.inLen.toNat)
    ∧ (tok 0).int.limBlk.toNat < 1 ∧ (tok 7).int.limBlk.toNat < 1 + 7
    ∧ (1 ≤ (bounded 9 0).int.limBlk.toNat ∧ ∃ b, (bounded 9 0).int.limBuf = some b ∧ b.toNat < 1)
    ∧ (1 + 7 ≤ (bounded 9 7).int.limBlk.toNat ∧ ∃ b, (bounded 9 7).int.limBuf = some b ∧ b.toNat < 1 + 7)
    ∧ Room 1 (tok 7) ∧ Room 1 (bounded 9 7) ∧ (1#16).toNat ≤ 1 - (tok 7).int.histLo.toNat
    ∧ ((Instr.last [0x61#8, 0x62#8, 0x63#8] 0#4).wf = true
      ∧ (tok 2).int.ip.toNat + (Instr.last [0x61#8, 0x62#8, 0x63#8] 0#4).size = (tok 2).opr.inLen.toNat
      ∧ 3 = (tok 2).int.op.toNat + [0x61#8, 0x62#8, 0x63#8].length ∧ (tok 2).int.limBlk.toNat < 3) :=
  ⟨by decide, by decide, by decide, by decide, ⟨by decide, _, rfl, by decide⟩, ⟨by decide, _, rfl, by decide⟩,
    ⟨by decide, by decide, nofun⟩, ⟨by decide, by decide, fun b h => by cases h; decide⟩, by decide, by decide⟩
theorem witness_LastEndsExactMode : (Instr.last [0x61#8] 3#4).wf = true ∧ (tok 1).int.exactMode = true
    ∧ 1 = (tok 1).int.op.toNat + [0x61#8].length
    ∧ (tok 1).int.ip.toNat + (Instr.last [0x61#8] 3#4).size ≤ (tok 1).opr.inLen.toNat ∧ Room 1 (tok 1)
    ∧ 1 = (tok 1).int.limBlk.toNat ∧ Room 1 (tok 2) ∧ 1 < (tok 2).int.limBlk.toNat :=
  ⟨by decide, by decide, by decide, by decide, ⟨by decide, by decide, nofun⟩, by decide, ⟨by decide, by decide, nofun⟩,
    by decide⟩
theorem witness_LastEndsDataBlock : (Instr.last [0x61#8] 3#4).wf = true ∧ (bounded 1 1).int.exactMode = false
    ∧ 1 = (bounded 1 1).int.op.toNat + [0x61#8].length
    ∧ (bounded 1 1).int.ip.toNat + (Instr.last [0x61#8] 3#4).size + 4 * (bounded 1 1).int.bck.toNat
      ≤ (bounded 1 1).opr.inLen.toNat
    ∧ Room 1 (bounded 1 1) :=
  ⟨by decide, by decide, by decide, by decide, by decide, by decide, fun b h => by cases h; decide⟩

set_option maxRecDepth 20000 in
theorem witness_DframeDecodesLegalFrame : (load ((frame.bytes {}) ++ [0xAA#8]) 9).busy = false
    ∧ HasInput (load ((frame.bytes {}) ++ [0xAA#8]) 9) ((frame.bytes {}) ++ [0xAA#8]) ∧ frame.legal = true
    ∧ frame.content.length ≤ (load ((frame.bytes {}) ++ [0xAA#8]) 9).opr.outCap.toNat :=
  ⟨by decide, ⟨by decide, by decide⟩, by decide, by decide⟩
theorem witness_DframeIsSafe : State.reset.busy = false := by decide
theorem witness_DframeChecksMagic : State.reset.busy = false ∧ (load (text "abc") 0).opr.inLen.toNat < 4
    ∧ 4 ≤ (load (text "abcd") 0).opr.inLen.toNat
    ∧ leNat ((load (text "abcd") 0).inBytes 0 4) ≠ 0x184D2204 := by decide

/-- A magic number, two descriptor bytes and a header checksum. -/
def headed (flg bd hc : Byte) : State := load [0x04#8, 0x22#8, 0x4D#8, 0x18#8, flg, bd, hc] 0

theorem witness_DframeChecksHeader :
    (∀ s ∈ [load magicBytes 0, headed 0x41#8 0x40#8 0#8, headed 0x40#8 0x40#8 0xC1#8, headed 0x62#8 0x40#8 0xF0#8,
        headed 0x60#8 0x30#8 0xD4#8],
      s.busy = false ∧ 4 ≤ s.opr.inLen.toNat ∧ leNat (s.inBytes 0 4) = 0x184D2204)
    ∧ (headed 0x41#8 0x40#8 0#8).opr.inLen.toNat < 4 + (2 + 8 * (0x41 / 8 % 2) + 4 * (0x41 % 2)) + 1
    ∧ 4 + (2 + 8 * (0x40 / 8 % 2) + 4 * (0x40 % 2)) + 1 ≤ (headed 0x40#8 0x40#8 0xC1#8).opr.inLen.toNat
    ∧ 0xC1 ≠ (ck32 {} ((headed 0x40#8 0x40#8 0xC1#8).inBytes 4 2)).toNat / 2 ^ 8 % 256
    ∧ (0xF0 = (ck32 {} ((headed 0x62#8 0x40#8 0xF0#8).inBytes 4 2)).toNat / 2 ^ 8 % 256 ∧ 0x62 / 2 % 2 = 1)
    ∧ 0xD4 = (ck32 {} ((headed 0x60#8 0x30#8 0xD4#8).inBytes 4 2)).toNat / 2 ^ 8 % 256 ∧ 0x30 / 16 % 8 < 4 := by decide
/-- A reader at HC whose registers FLG and BD hold these. -/
def atHc (flg bd : Byte) : State :=
  let s := load ([0x04#8, 0x22#8, 0x4D#8, 0x18#8, flg, bd] ++ List.replicate 13 0#8) 0
  running s 0x05#8 .header { point := .hc, ip := 4#32, flg := flg, bd := bd }

theorem witness_HcDecidesTheHeader :
    (∀ s ∈ [atHc 0x40#8 0x40#8, atHc 0x40#8 0x30#8, atHc 0x48#8 0x40#8, atHc 0x41#8 0x40#8],
      s.int.ip.toNat + descLen s.int.flg + 1 ≤ s.opr.inLen.toNat)
    ∧ ¬(0xC1#8).toNat = (ck32 {} ((atHc 0x40#8 0x40#8).inBytes 4 (descLen 0x40#8))).toNat / 2 ^ 8 % 256
    ∧ (headerByte {} [0x40#8, 0x30#8]).toNat
      = (ck32 {} ((atHc 0x40#8 0x30#8).inBytes 4 (descLen 0x40#8))).toNat / 2 ^ 8 % 256
    ∧ (0x30#8).toNat / 16 % 8 < 4
    ∧ (0xC0#8).toNat = (ck32 {} ((atHc 0x40#8 0x40#8).inBytes 4 (descLen 0x40#8))).toNat / 2 ^ 8 % 256
    ∧ (∀ flg ∈ [0x40#8, 0x48#8, 0x41#8], ¬((flg : Byte).toNat / 64 ≠ 1 ∨ flg.getLsbD 1 = true
        ∨ (0x40#8).getLsbD 7 = true ∨ (0x40#8).toNat % 16 ≠ 0 ∨ (0x40#8).toNat / 16 % 8 < 4))
    ∧ (0x48#8).getLsbD 3 = true ∧ ((0x41#8).getLsbD 3 = false ∧ (0x41#8).getLsbD 0 = true)
    ∧ (0x40#8).getLsbD 3 = false ∧ (0x40#8).getLsbD 0 = false := by decide
theorem witness_HeaderElementsAreTaken : (header .magic 7).int.ip.toNat + 4 ≤ (header .magic 7).opr.inLen.toNat
    ∧ ((header .bd 8).int.ip.toNat ≤ (header .bd 8).opr.inLen.toNat
      ∧ (header .bd 8).int.ip.toNat + (2 + 8 * (0x40 / 8 % 2) + 4 * (0x40 % 2)) + 1 ≤ (header .bd 8).opr.inLen.toNat
      ∧ (header .bd 9).int.ip.toNat ≤ (header .bd 9).opr.inLen.toNat
      ∧ (header .bd 9).opr.inLen.toNat < (header .bd 9).int.ip.toNat + (2 + 8 * (0x40 / 8 % 2) + 4 * (0x40 % 2)) + 1)
    ∧ (atHc 0x48#8 0x40#8).int.ip.toNat + descLen (atHc 0x48#8 0x40#8).int.flg + 1 ≤ (atHc 0x48#8 0x40#8).opr.inLen.toNat
    ∧ (atHc 0x48#8 0x40#8).int.did = false
    ∧ (let s := { atHc 0x49#8 0x40#8 with int := { (atHc 0x49#8 0x40#8).int with did := true } };
      s.int.ip.toNat + descLen s.int.flg + 1 ≤ s.opr.inLen.toNat ∧ s.int.did = true) := by decide

/-- A reader in the middle of its blocks, `IN_LEN` 11, `ip` 0, with these flags and block registers. -/
def reading (bck cck csz stored : Bool) (size bmax : Nat) : State :=
  running (load (List.replicate 11 0x61#8) 5) 0x05#8 .blocks
    { point := .block, bck := bck, cck := cck, csz := csz, blkStored := stored, blkSize := BitVec.ofNat 31 size
      bmax := w32 bmax }

theorem witness_BsizeChecksThePayload :
    (∀ s ∈ [reading false false false false 0 6, reading true false false false 0 7],
      s.int.ip.toNat + 4 ≤ s.opr.inLen.toNat)
    ∧ (reading false false false false 0 6).int.bmax.toNat < (7#31).toNat
    ∧ ((4#31).toNat ≤ (reading true false false false 0 7).int.bmax.toNat
      ∧ (reading true false false false 0 7).opr.inLen.toNat < 0 + 4 + (4#31).toNat + 4 * 1)
    ∧ (3#31).toNat ≤ (reading true false false false 0 7).int.bmax.toNat
    ∧ (reading true false false false 0 7).int.bck = true
    ∧ 0 + 4 + (3#31).toNat + 4 ≤ (reading true false false false 0 7).opr.inLen.toNat := by decide
theorem witness_StoredBlockIsCopied :
    (let s := reading false true false true 0 7;
      (5#31).toNat ≤ s.int.bmax.toNat ∧ s.int.bck = false ∧ 4 = s.int.ip.toNat + 4
        ∧ 4 + (7#31).toNat ≤ s.opr.inLen.toNat
        ∧ s.int.op.toNat + (5#31).toNat ≤ s.opr.outCap.toNat ∧ s.opr.outCap.toNat < s.int.op.toNat + (6#31).toNat)
    ∧ (let s := reading true true false true 7 7;
      (7#31).toNat ≤ s.int.bmax.toNat ∧ s.int.bck = true ∧ 0 = s.int.ip.toNat
        ∧ 0 + (7#31).toNat + 4 ≤ s.opr.inLen.toNat ∧ s.int.blkStored = true ∧ s.int.blkSize = 7#31
        ∧ s.opr.outCap.toNat < s.int.op.toNat + (7#31).toNat)
    ∧ (let s := reading true true false true 5 7;
      (5#31).toNat ≤ s.int.bmax.toNat ∧ s.int.bck = true ∧ 0 = s.int.ip.toNat
        ∧ 0 + (5#31).toNat + 4 ≤ s.opr.inLen.toNat ∧ s.int.blkStored = true ∧ s.int.blkSize = 5#31
        ∧ ck32 s.cfg (s.inBytes 0 5) = ck32 s.cfg (s.inBytes 0 (5#31).toNat)
        ∧ s.int.op.toNat + (5#31).toNat ≤ s.opr.outCap.toNat) := by decide
theorem witness_CompressedBlockStartsTheDecoder :
    (let s := reading false true false false 0 7;
      (7#31).toNat ≤ s.int.bmax.toNat ∧ s.int.bck = false ∧ 4 = s.int.ip.toNat + 4
        ∧ 4 + (7#31).toNat ≤ s.opr.inLen.toNat)
    ∧ (let s := reading true true false false 7 7;
      (7#31).toNat ≤ s.int.bmax.toNat ∧ s.int.bck = true ∧ 0 = s.int.ip.toNat
        ∧ 0 + (7#31).toNat + 4 ≤ s.opr.inLen.toNat ∧ s.int.blkStored = false ∧ s.int.blkSize = 7#31) := by decide
theorem witness_WrongBckStopsBeforeDecoding : let s := reading true false false true 0 7
    0#32 ≠ ck32 s.cfg (s.inBytes s.int.ip.toNat s.int.blkSize.toNat) := by decide
theorem witness_EndmarkEndsTheBlocks :
    (reading false true false false 0 7).int.ip.toNat + 4 ≤ (reading false true false false 0 7).opr.inLen.toNat
    ∧ (reading false true false false 0 7).int.cck = true
    ∧ (let s := { reading false false true false 0 7 with res := { csizeLo := 1#32 } };
      s.int.cck = false ∧ s.int.csz = true ∧ s.res.csizeLo.toNat + 2 ^ 32 * s.res.csizeHi.toNat ≠ s.int.op.toNat)
    ∧ (let s := reading false false true false 0 7;
      s.int.cck = false ∧ s.res.csizeLo.toNat + 2 ^ 32 * s.res.csizeHi.toNat = s.int.op.toNat)
    ∧ (reading false false false false 0 7).int.csz = false := by decide
theorem witness_CckEndsTheFrame :
    (reading false true false false 0 7).int.ip.toNat + 4 ≤ (reading false true false false 0 7).opr.inLen.toNat
    ∧ 0#32 ≠ ck32 {} (reading false true false false 0 7).int.cc
    ∧ 0x02CC5D05#32 = ck32 {} (reading false true true false 0 7).int.cc
    ∧ (let s := { reading false true true false 0 7 with res := { csizeHi := 1#32 } };
      s.int.csz = true ∧ s.res.csizeLo.toNat + 2 ^ 32 * s.res.csizeHi.toNat ≠ s.int.op.toNat)
    ∧ (reading false true false false 0 7).int.csz = false := by decide
/-- Loaded bytes read back, whatever their number. -/
theorem inBytes_load (bs : List Byte) (cap : Nat) : (load bs cap).inBytes 0 bs.length = bs := by
  apply List.ext_getElem?
  intro i
  by_cases h : i < bs.length
  · rw [State.inBytes_getElem _ _ _ _ h, List.getElem?_eq_getElem h]
    have := State.inByte_inWrite { load bs cap with inb := [] } 0 bs i
    simp only [State.inWrite, State.inByte, Nat.zero_le, Nat.zero_add, h, and_self, if_true, Nat.sub_zero] at this
    simpa [State.inByte, load, List.getD, List.getElem?_eq_getElem h] using this
  · rw [List.getElem?_eq_none (by simpa [State.inBytes_length] using h), List.getElem?_eq_none (by simpa using h)]

/-- A decoder in exact mode with nine bytes expected, and these bytes as its whole input. -/
def tokens (bs : List Byte) : State :=
  running (load bs 9) 0x03#8 .none { point := .tokens, inEnd := w32 bs.length, limBlk := 9#33, exactMode := true }

theorem tokens_stream {bs : List Byte} (h : bs.length < 2 ^ 32) :
    (tokens bs).inBytes (tokens bs).int.ip.toNat ((tokens bs).int.inEnd.toNat - (tokens bs).int.ip.toNat) = bs := by
  have hl : (w32 bs.length).toNat = bs.length := toNat_w32 h
  have hb := inBytes_load bs 9
  rw [← hb]
  simp only [tokens, running, hl, hb]
  exact hb

theorem witness_BytesThatAreNoElementStop :
    (∀ s ∈ [header .magic 8, header .block 8, header .cck 8], s.host = [] ∧ s.busy = true
      ∧ (s.int.point = .magic ∨ s.int.point = .block ∨ s.int.point = .cck) ∧ s.opr.inLen.toNat < s.int.ip.toNat + 4)
    ∧ (let s := header .flg 9;
      s.host = [] ∧ s.busy = true ∧ s.int.point = .flg ∧ s.opr.inLen.toNat < s.int.ip.toNat + 3)
    ∧ (let s := header .tokens 0;
      s.host = [] ∧ s.busy = true ∧ s.int.point = .tokens ∧ s.int.inEnd.toNat ≤ s.int.ip.toNat)
    ∧ (∀ bs : List Byte, (tokens bs).host = [] ∧ (tokens bs).busy = true ∧ (tokens bs).int.point = .tokens)
    ∧ (Room (0 + [0x61#8].length) (tokens []) ∧ (0xFF#8).toNat / 16 = 15 ∧ (0x1F#8).toNat / 16 = lenCode [0x61#8].length
      ∧ (0xF0#8).toNat / 16 = lenCode 16 ∧ [0x61#8].length < 16)
    -- a cut run, a run over 32 bits, too few literals
    ∧ (15 + 255 * 2 < 2 ^ 32 ∧ 15 + 255 * 16843008 < 2 ^ 32 ∧ 2 ^ 32 ≤ 15 + 255 * 16843008 + (241#8).toNat)
    -- literals over the limit
    ∧ (tokens []).int.over (0 + (List.replicate 10 0x61#8).length) = some .malformedSequence
    -- an offset of 0, one too far, a legal one
    ∧ ((0#8).toNat + 256 * (0#8).toNat = 0 ∧ 0 + [0x61#8].length - 0 < (2#8).toNat + 256 * (0#8).toNat
      ∧ (1#8).toNat + 256 * (0#8).toNat ≠ 0 ∧ (1#8).toNat + 256 * (0#8).toNat ≤ 0 + [0x61#8].length - 0)
    -- a cut run and a run over 32 bits in a match length
    ∧ ((0x1F#8).toNat % 16 = 15 ∧ 15 + 255 * 16843008 + 4 < 2 ^ 32 ∧ 2 ^ 32 ≤ 15 + 255 * 16843008 + (237#8).toNat + 4)
    ∧ (∀ bs : List Byte, bs.length < 2 ^ 32 → (tokens bs).inBytes (tokens bs).int.ip.toNat
      ((tokens bs).int.inEnd.toNat - (tokens bs).int.ip.toNat) = bs) :=
  ⟨by decide, by decide, by decide, fun _ => ⟨rfl, rfl, rfl⟩,
    ⟨⟨by decide, by decide, nofun⟩, by decide, by decide, by decide, by decide⟩, ⟨by norm_num, by norm_num, by decide⟩,
    by decide, by decide, ⟨by decide, by norm_num, by decide⟩, fun _ h => tokens_stream h⟩
theorem witness_CframeChecksSpaceFirst : (load [] 10).cfg.wf = true ∧ (load [] 10).busy = false
    ∧ (load [] 10).opr.outCap.toNat < (7 + 8 * 0) + 0 + 4 + 4 * 0 := by decide
theorem witness_CframeEndsDone : (load [0x41#8] 32).cfg.wf = true ∧ (load [0x41#8] 32).busy = false
    ∧ frameBound (2 ^ (8 + 2 * 4)) 1 false false false ≤ (load [0x41#8] 32).opr.outCap.toNat := by decide
set_option maxRecDepth 20000 in
theorem witness_CframeWritesLegalFrame : ∃ s t : State, s.cfg.wf = true ∧ s.busy = false ∧ exec .cframe s = .next t
    ∧ t.err = .none := ⟨load [0x41#8] 32, runCommand .cframe (load [0x41#8] 32), by decide, by decide, rfl, by decide⟩

/-- The frame of one letter. -/
def letterFrame : List Byte :=
  [0x04#8, 0x22#8, 0x4D#8, 0x18#8, 0x40#8, 0x40#8, 0xC0#8, 1#8, 0#8, 0#8, 0x80#8, 0x41#8, 0#8, 0#8, 0#8, 0#8]

set_option maxRecDepth 20000 in
theorem witness_FrameRoundTrip : ∃ s t u u' : State, s.cfg.wf = true ∧ s.busy = false ∧ exec .cframe s = .next t
    ∧ t.err = .none ∧ u.busy = false ∧ u.cfg.checksum = s.cfg.checksum ∧ HasInput u (t.outBytes 0 t.res.outLen.toNat)
    ∧ s.opr.inLen.toNat ≤ u.opr.outCap.toNat
    ∧ u'.busy = false ∧ u'.cfg.checksum = s.cfg.checksum ∧ HasInput u' (t.outBytes 0 t.res.outLen.toNat) ∧ u'.opr.outCap.toNat < s.opr.inLen.toNat :=
  ⟨load [0x41#8] 32, runCommand .cframe (load [0x41#8] 32), load letterFrame 1, load letterFrame 0, by decide,
    by decide, rfl, by decide, by decide, rfl, ⟨by decide, by decide⟩, by decide, by decide, rfl, ⟨by decide, by decide⟩,
    by decide⟩

theorem witness_DecodeOfEncode : (Instr.seq (List.replicate 15 0x41#8) 0x0102#16 4).wf = true
    ∧ (Instr.last [0x41#8] 7#4).wf = true ∧ (Instr.bd 7#3).wf = true := by decide
theorem witness_EncodeOfDecode : decode .token [0x13#8, 0x61#8, 0x01#8, 0x00#8, 0xAA#8] = .ok (.seq [0x61#8] 1#16 7)
    ∧ decode .token [0x13#8, 0x61#8] = .ok (.last [0x61#8] 3#4) := by decide
theorem witness_IllegalEncodingsAreRejected :
    ((0xE3#8).toNat / 16 = lenCode (List.replicate 14 0x41#8).length
      ∧ (0xF3#8).toNat / 16 = lenCode (List.replicate 15 0x41#8).length ∧ (List.replicate 15 0x41#8).length < 2 ^ 32)
    ∧ (0x13#8).toNat ∉ [0x01, 0x02, 0x03, 0x04, 0x05, 0x10, 0x11, 0x12, 0x1F]
    ∧ ((0x3F#8).toNat / 64 ≠ 1 ∧ (0x80#8).toNat / 64 ≠ 1)
    ∧ ((0xC0#8).toNat / 128 = 1 ∧ (0x48#8).toNat % 16 ≠ 0)
    ∧ leNat [0x50#8, 0x2A#8, 0x4D#8, 0x18#8] ≠ 0x184D2204
    ∧ (decode .flg [0x42#8] = .ok (.flg false false false false true false) ∧ (0x42#8).toNat / 2 % 2 = 1)
    ∧ (decode .bd [0x30#8] = .ok (.bd 3#3) ∧ (0x30#8).toNat / 16 < 4) ∧ decode .bd [0x40#8] = .ok (.bd 4#3) := by decide
theorem witness_StepRunsDecodedInstruction :
    (let s := { State.reset with host := [.wr 0 1#32] };
      s.host = .wr 0 1#32 :: [] ∧ decode .cmd [(1#32).setWidth 8] = .ok .cbound)
    ∧ (tok 8).host = [] ∧ (tok 8).busy = true ∧ (tok 8).int.point.site = some .token
    ∧ decode .token ((tok 8).fetchBytes .token) = .ok (.seq [0x61#8] 1#16 7)
    ∧ State.reset.host = [] ∧ State.reset.busy = false
    ∧ { State.reset with host := [.wr 4 7#32] }.host = .wr 4 7#32 :: [] := by decide
theorem witness_WrittenElementRuns :
    (let i := Instr.seq [0x61#8] 1#16 7;
      let s := tok 8;
      i.wf = true ∧ s.host = [] ∧ s.busy = true ∧ s.int.point.site = some i.site
        ∧ s.inBytes (s.int.fetchAt i.site) i.size = encode i ∧ s.int.ip.toNat + i.size ≤ s.int.inEnd.toNat)
    ∧ (let i := Instr.last [0x61#8] 3#4;
      let s := { tok 8 with int := { (tok 8).int with inEnd := 2#32 } };
      i.wf = true ∧ s.host = [] ∧ s.busy = true ∧ s.int.point.site = some i.site
        ∧ s.inBytes (s.int.fetchAt i.site) i.size = encode i ∧ s.int.ip.toNat + i.size = s.int.inEnd.toNat)
    ∧ (let i := Instr.endmark;
      let s := header .block 7;
      i.wf = true ∧ s.host = [] ∧ s.busy = true ∧ s.int.point.site = some i.site
        ∧ s.inBytes (s.int.fetchAt i.site) i.size = encode i
        ∧ s.int.fetchAt i.site + siteNeed i.site ≤ s.opr.inLen.toNat) := by decide
/-- States in the middle of a command meet the invariant, and one of their steps goes on. -/
theorem witness_StepKeepsInvariant : ∃ s t : State, s.inv = true ∧ s.busy = true ∧ step s = .next t ∧ t.busy = true :=
  ⟨tok 8, _, by decide, by decide, rfl, by decide⟩
theorem witness_StepKeepsCursorsInInput : ∃ s t : State, s.inv = true ∧ s.cursorsOk = true ∧ s.busy = true
    ∧ step s = .next t ∧ t.busy = true := ⟨header .bd 4, _, by decide, by decide, by decide, rfl, by decide⟩
theorem witness_InstructionsKeepOperandsAndInput : (∃ t, exec .dblock fiveA = .next t)
    ∧ (∃ t, step { fiveA with host := [.reset], cfg := { hashLog := 20 } } = .next t)
    ∧ Instr.dblock ∉ [.mfclr, .mffind, .mfins, .cblock, .cframe, .abort] := ⟨⟨_, rfl⟩, ⟨_, rfl⟩, by decide⟩
theorem witness_EveryCommandEnds : fiveA.inv = true ∧ fiveA.busy = false ∧ commandOf .dblock = some .dblock := by decide
theorem witness_AtomicCommandEqualsItsSteps : fiveA.host = [] ∧ fiveA.busy = false
    ∧ commandOf .dblock = some .dblock := by decide

end Sys2Proof.Tests
end

section
/-! SUPPORT. What the engine's operations keep: the operands, the canonical form of the data, and, for the block decoder
and the frame reader, the hash table (10_state.md rules R14, R17, R20, R28). -/

namespace Sys2Proof.Machine

/-! ### The data in canonical form -/

/-- The clauses of `State.dataOk`. -/
theorem State.dataOk_iff (s : State) : s.dataOk = true ↔
    s.inb.wf = true ∧ s.outb.wf = true ∧ Table.wf s.ht = true ∧ (∀ e ∈ s.ht, e.1 < 2 ^ s.cfg.hashLog)
      ∧ s.int.h.toNat < 2 ^ s.cfg.hashLog := by
  simp only [State.dataOk, Bool.and_eq_true, decide_eq_true_eq, List.all_eq_true, and_assoc]

/-- A hash is an index of the table, whatever the parameters are (R101). -/
theorem hashWord_lt (cfg : Params) (w : Word) : hashWord cfg w < 2 ^ cfg.hashLog := by
  have hlt : (w * cfg.hashMult).toNat < 2 ^ (32 - cfg.hashLog) * 2 ^ cfg.hashLog := by
    rw [← pow_add]
    exact (w * cfg.hashMult).isLt.trans_le (Nat.pow_le_pow_right (by decide) (by omega))
  rw [hashWord, BitVec.toNat_ushiftRight, Nat.shiftRight_eq_div_pow]
  exact Nat.div_lt_of_lt_mul hlt

theorem toNat_w32_le (n : Nat) : (w32 n).toNat ≤ n := by
  rw [BitVec.toNat_ofNat]
  exact Nat.mod_le ..

theorem Internal.released_h_lt (hashLog k : Nat) : (Internal.released hashLog k).h.toNat < 2 ^ hashLog :=
  (toNat_w32_le _).trans_lt (Nat.mod_lt _ (by positivity))

/-! ### What every operation of the engine keeps -/

/-- The operand registers are the same, and data in canonical form stays so. -/
def Tame (s t : State) : Prop := t.opr = s.opr ∧ (s.dataOk = true → t.dataOk = true)

theorem Tame.refl (s : State) : Tame s s := ⟨rfl, id⟩

theorem Tame.trans {s t u : State} (h : Tame s t) (h' : Tame t u) : Tame s u :=
  ⟨h'.1.trans h.1, fun hs => h'.2 (h.2 hs)⟩

theorem tame_release (s : State) : Tame s s.release := by
  refine ⟨rfl, fun h => ?_⟩
  obtain ⟨hin, hout, hwf, hlt, -⟩ := s.dataOk_iff.1 h
  exact (State.dataOk_iff _).2 ⟨hin, hout, hwf, hlt, Internal.released_h_lt ..⟩

theorem tame_freeOut (lo hi : Nat) (s : State) : Tame s (s.freeOut lo hi) := by
  refine ⟨rfl, fun h => ?_⟩
  obtain ⟨hin, hout, hrest⟩ := s.dataOk_iff.1 h
  exact (State.dataOk_iff _).2 ⟨hin, Memory.forget_wf _ lo hi hout, hrest⟩

theorem tame_outWrite (s : State) (a : Nat) (bs : List Byte) : Tame s (s.outWrite a bs) := by
  refine ⟨rfl, fun h => ?_⟩
  obtain ⟨hin, hout, hrest⟩ := s.dataOk_iff.1 h
  exact (State.dataOk_iff _).2 ⟨hin, Memory.writeBytes_wf _ a bs hout, hrest⟩

theorem tame_emit (bs : List Byte) (s : State) : Tame s (s.emit bs) :=
  tame_outWrite s s.int.op.toNat bs

theorem tame_copyLits (lit : List Byte) (s : State) : Tame s (s.copyLits lit) :=
  tame_outWrite s s.int.op.toNat lit

theorem tame_copyMatch (mlen : Nat) (s : State) : Tame s (s.copyMatch mlen) := by
  refine ⟨rfl, fun h => ?_⟩
  obtain ⟨hin, hout, hrest⟩ := s.dataOk_iff.1 h
  exact (State.dataOk_iff _).2 ⟨hin, copyBack_wf _ _ _ _ _ hout, hrest⟩

theorem tame_mfClear (s : State) : Tame s s.mfClear := by
  refine ⟨rfl, fun h => ?_⟩
  obtain ⟨hin, hout, -, -, hh⟩ := s.dataOk_iff.1 h
  exact (State.dataOk_iff _).2 ⟨hin, hout, rfl, fun _ he => absurd he List.not_mem_nil, hh⟩

theorem tame_mfInsert (p : Nat) (s : State) : Tame s (s.mfInsert p) := by
  refine ⟨rfl, fun h => ?_⟩
  obtain ⟨hin, hout, hwf, hlt, hh⟩ := s.dataOk_iff.1 h
  refine (State.dataOk_iff _).2 ⟨hin, hout, Table.put_wf _ _ hwf, fun e he => ?_, hh⟩
  rcases Table.mem_put he with rfl | he
  · exact hashWord_lt ..
  · exact hlt e he

theorem tame_mfRegs (p : Nat) (r : Option (Nat × Nat)) (s : State) : Tame s (s.mfRegs p r) := by
  refine ⟨rfl, fun h => ?_⟩
  obtain ⟨hin, hout, hwf, hlt, -⟩ := s.dataOk_iff.1 h
  exact (State.dataOk_iff _).2 ⟨hin, hout, hwf, hlt, (toNat_w32_le _).trans_lt (hashWord_lt ..)⟩

theorem tame_mfFind (p winLo limit : Nat) (s : State) : Tame s (s.mfFind p winLo limit).2 :=
  (tame_mfRegs p _ s).trans (tame_mfInsert p _)

theorem tame_raise (e : ErrCode) (outLen inPos : Word) (s : State) : Tame s (s.raise e outLen inPos) :=
  tame_release { s with res := { s.res with outLen := outLen, inPos := inPos }, err := e, status := s.status.failed }

theorem tame_raiseAtCursors (e : ErrCode) (s : State) : Tame s (s.raiseAtCursors e) :=
  (tame_raise e s.int.op s.int.ip s).trans (tame_freeOut ..)

theorem tame_endDone (s : State) : Tame s s.endDone :=
  (tame_release { s with status := { s.status with state := .done } }).trans (tame_freeOut ..)

theorem tame_finish (outLen inPos : Word) (s : State) : Tame s (s.finish outLen inPos) :=
  tame_endDone { s with res := { s.res with outLen := outLen, inPos := inPos } }

theorem tame_illegalOpcode (b : Byte) (s : State) : Tame s (s.illegalOpcode b) :=
  tame_raise .illegalCommand 0#32 0#32 { s with status := Status.started b, err := .none, res := {} }

theorem tame_startCmd (c : Cmd) (s : State) : Tame s (s.startCmd c) := ⟨rfl, id⟩

theorem tame_abandon (s : State) : Tame s s.abandon := by
  have clear : ∀ u : State, Tame u { u with ht := [], res := {}, err := .none, status := Status.aborted }.release :=
    fun u => (tame_mfClear u).trans
      (tame_release { u.mfClear with res := {}, err := .none, status := Status.aborted })
  unfold State.abandon
  cases s.busy
  · exact clear s
  · exact (tame_freeOut 0 s.opr.outCap.toNat s).trans (clear _)

/-! ### The outcomes of the block decoder and the frame reader -/

/-- `Tame`, with the same hash table: what the decoder and the reader keep (R42, R51). -/
def Tidy (s t : State) : Prop := Tame s t ∧ t.ht = s.ht

theorem Tidy.trans {s t u : State} (h : Tidy s t) (h' : Tidy t u) : Tidy s u :=
  ⟨h.1.trans h'.1, h'.2.trans h.2⟩

/-- `Tidy`, with the same `STATUS` and `ERR`: only cursors, registers and `OUT` have moved. -/
structure Moves (s u : State) : Prop where
  tidy : Tidy s u
  status : u.status = s.status
  err : u.err = s.err

theorem Moves.trans {s t u : State} (h : Moves s t) (h' : Moves t u) : Moves s u :=
  ⟨h.tidy.trans h'.tidy, h'.status.trans h.status, h'.err.trans h.err⟩

theorem moves_refl (s : State) : Moves s s := ⟨⟨Tame.refl s, rfl⟩, rfl, rfl⟩

theorem moves_literals (t : Byte) (lit : List Byte) (s : State) :
    Moves s ((s.atLits t lit.length).copyLits lit) :=
  ⟨⟨tame_copyLits lit (s.atLits t lit.length), rfl⟩, rfl, rfl⟩

theorem moves_atOff (off : BitVec 16) (s : State) : Moves s (s.atOff off) := ⟨⟨⟨rfl, id⟩, rfl⟩, rfl, rfl⟩

theorem moves_atMatch (mlen : Nat) (s : State) : Moves s (s.atMatch mlen) := ⟨⟨⟨rfl, id⟩, rfl⟩, rfl, rfl⟩

theorem moves_copyMatch (mlen : Nat) (s : State) : Moves s (s.copyMatch mlen) :=
  ⟨⟨tame_copyMatch mlen s, rfl⟩, rfl, rfl⟩

/-- The running command has ended in an error taken at the cursors, in a state that differs from `s` in cursors, registers
and `OUT` only (R205). -/
def Fails (s t : State) : Prop := ∃ u e, Moves s u ∧ e ≠ .none ∧ t = u.raiseAtCursors e

theorem Moves.fails {s u : State} {e : ErrCode} (h : Moves s u) (he : e ≠ .none) : Fails s (u.raiseAtCursors e) :=
  ⟨u, e, h, he, rfl⟩

theorem fails_raiseAtCursors {e : ErrCode} (he : e ≠ .none) (s : State) : Fails s (s.raiseAtCursors e) :=
  (moves_refl s).fails he

theorem Moves.then_fails {s u t : State} (h : Moves s u) (hf : Fails u t) : Fails s t := by
  obtain ⟨v, e, hv, he, rfl⟩ := hf
  exact (h.trans hv).fails he

theorem Fails.tidy {s t : State} (h : Fails s t) : Tidy s t := by
  obtain ⟨u, e, hu, -, rfl⟩ := h
  exact hu.tidy.trans ⟨tame_raiseAtCursors e u, rfl⟩

/-- A command that has failed stands at no point of its pseudocode. -/
theorem Fails.point {s t : State} (h : Fails s t) : t.int.point = .idle := by
  obtain ⟨u, e, -, -, rfl⟩ := h
  rfl

/-! ### The block decoder -/

/-- `over` names an error. -/
theorem Internal.over_ne_none {i : Internal} {n : Nat} {e : ErrCode} (h : i.over n = some e) : e ≠ .none := by
  rcases i.over_cases n with ⟨h', -⟩ | ⟨h', -⟩ | ⟨h', -⟩ <;> rw [h'] at h <;> cases h <;> decide

/-- After the literal step a command has failed, or goes on from the copy. -/
theorem litStep_bind_cases (t : Byte) (lit : List Byte) (s : State) (f : State → Except State State) :
    Fails s (stateOf (s.litStep t lit >>= f))
      ∨ stateOf (s.litStep t lit >>= f) = stateOf (f ((s.atLits t lit.length).copyLits lit)) := by
  rcases s.litStep_cases t lit with ⟨e, he, h⟩ | ⟨-, h⟩ <;> rw [h]
  · exact .inl ⟨s.atLits t lit.length, e, ⟨⟨⟨rfl, id⟩, rfl⟩, rfl, rfl⟩, Internal.over_ne_none he, rfl⟩
  · exact .inr rfl

/-- After the offset step a command has failed, or goes on with `ip` past the offset. -/
theorem offStep_bind_cases (off : BitVec 16) (s : State) (f : State → Except State State) :
    Fails s (stateOf (s.offStep off >>= f)) ∨ stateOf (s.offStep off >>= f) = stateOf (f (s.atOff off)) := by
  rcases s.offStep_cases off with ⟨-, h⟩ | ⟨-, -, h⟩ <;> rw [h]
  · exact .inl ((moves_atOff off s).fails (e := .malformedSequence) (by decide))
  · exact .inr rfl

/-- After the match step a command has failed, or has copied the match. -/
theorem matchStep_stateOf_cases (mlen : Nat) (s : State) :
    Fails s (stateOf (s.matchStep mlen)) ∨ stateOf (s.matchStep mlen) = (s.atMatch mlen).copyMatch mlen := by
  rcases s.matchStep_cases mlen with ⟨e, he, h⟩ | ⟨-, h⟩ <;> rw [h]
  · exact .inl ((moves_atMatch mlen s).fails (Internal.over_ne_none he))
  · exact .inr rfl

theorem litStep_bind_fails {t : Byte} {lit : List Byte} {s : State} {f : State → Except State State}
    (hf : ∀ u, Fails u (stateOf (f u))) : Fails s (stateOf (s.litStep t lit >>= f)) := by
  rcases litStep_bind_cases t lit s f with h | h
  · exact h
  · exact h ▸ (moves_literals t lit s).then_fails (hf _)

theorem offStep_bind_fails {off : BitVec 16} {s : State} {f : State → Except State State}
    (hf : ∀ u, Fails u (stateOf (f u))) : Fails s (stateOf (s.offStep off >>= f)) := by
  rcases offStep_bind_cases off s f with h | h
  · exact h
  · exact h ▸ (moves_atOff off s).then_fails (hf _)

/-- The state after a SEQ whose checks have all passed. -/
def seqDone (lit : List Byte) (off : BitVec 16) (mlen : Nat) (s : State) : State :=
  let s1 := (s.atLits (tokenByte lit.length (mlen - Config.minMatch)) lit.length).copyLits lit
  ((s1.atOff off).atMatch mlen).copyMatch mlen

theorem moves_seqDone (lit : List Byte) (off : BitVec 16) (mlen : Nat) (s : State) : Moves s (seqDone lit off mlen s) :=
  (moves_literals ..).trans <| (moves_atOff off _).trans <| (moves_atMatch mlen _).trans (moves_copyMatch mlen _)

theorem seqState_cases (lit : List Byte) (off : BitVec 16) (mlen : Nat) (s : State) :
    Fails s (seqState lit off mlen s) ∨ seqState lit off mlen s = seqDone lit off mlen s := by
  unfold seqState
  rcases litStep_bind_cases _ lit s _ with h | h
  · exact .inl h
  rw [h]
  rcases offStep_bind_cases off _ _ with h | h
  · exact .inl ((moves_literals ..).then_fails h)
  rw [h]
  rcases matchStep_stateOf_cases mlen _ with h | h
  · exact .inl ((moves_literals ..).then_fails ((moves_atOff off _).then_fails h))
  · exact .inr h

theorem lastState_cases (lit : List Byte) (mc : BitVec 4) (s : State) :
    Fails s (lastState lit mc s) ∨ lastState lit mc s
      = terminalState ((s.atLits (BitVec.ofNat 8 (16 * lenCode lit.length + mc.toNat)) lit.length).copyLits lit) :=
  litStep_bind_cases _ lit s _

/-- Bytes of a token stream that are no encoded sequence end the command in an error, whatever they are (R143). -/
theorem rejectToken_fails (r : Reject) (s : State) : Fails s (rejectToken r s) := by
  have skipped : ∀ (n : Nat) (u : State) (e : ErrCode), e ≠ .none → Fails u ((u.skip n).raiseAtCursors e) :=
    fun n u e he => Moves.fails (u := u.skip n) ⟨⟨⟨rfl, id⟩, rfl⟩, rfl, rfl⟩ he
  cases r with
  | litExtShort t used => exact Moves.fails (u := s.atToken t (1 + used)) ⟨⟨⟨rfl, id⟩, rfl⟩, rfl, rfl⟩ (by decide)
  | litExtOver t used => exact Moves.fails (u := s.atToken t (1 + used)) ⟨⟨⟨rfl, id⟩, rfl⟩, rfl, rfl⟩ (by decide)
  | litShort t len => exact Moves.fails (u := s.atLits t len) ⟨⟨⟨rfl, id⟩, rfl⟩, rfl, rfl⟩ (by decide)
  | offShort t lit => exact litStep_bind_fails fun u => fails_raiseAtCursors (by decide) u
  | offZero t lit =>
    refine litStep_bind_fails fun u => ?_
    rw [State.offStep, if_pos (.inl rfl)]
    exact (moves_atOff 0 u).fails (by decide)
  | matchExtShort t lit off used =>
    exact litStep_bind_fails fun u => offStep_bind_fails fun v => skipped used v _ (by decide)
  | matchExtOver t lit off used =>
    exact litStep_bind_fails fun u => offStep_bind_fails fun v => skipped used v _ (by decide)
  | _ => exact fails_raiseAtCursors (by decide) s

end Sys2Proof.Machine
end

section
namespace Sys2Proof.Machine

/-! ### The frame reader -/

/-- Operations of the reader that keep operands, data and table because they move registers only. -/
theorem tidy_closeBlock (s : State) : Tidy s (closeBlock s) := ⟨⟨rfl, id⟩, rfl⟩
theorem tidy_tokenPayload (s : State) : Tidy s (tokenPayload s) := ⟨⟨rfl, id⟩, rfl⟩

theorem tidy_finish (outLen inPos : Word) (s : State) : Tidy s (s.finish outLen inPos) := ⟨tame_finish .., rfl⟩

/-- The end of a token stream: DBLOCK fails or ends, a data block is closed (R143 step 4). -/
theorem terminalState_cases (s : State) :
    (s.int.exactMode = true ∧ (Fails s (terminalState s) ∨ terminalState s = s.finish s.int.op s.int.ip))
      ∨ (s.int.exactMode = false ∧ terminalState s = closeBlock s) := by
  unfold terminalState
  split_ifs with hm h
  · exact .inl ⟨hm, .inl (fails_raiseAtCursors (by decide) s)⟩
  · exact .inl ⟨hm, .inr rfl⟩
  · exact .inr ⟨by simpa using hm, rfl⟩

/-- The BD byte: the rest of the header is there, or the command fails (R167). -/
theorem bdState_cases (b : Byte) (s : State) :
    Fails s (bdState b s)
      ∨ (s.int.ip.toNat + descLen s.int.flg + 1 ≤ s.opr.inLen.toNat
        ∧ bdState b s = { s with int := { s.int with bd := b, point := .hc } }) := by
  simp only [bdState]
  split_ifs with h
  · exact .inl (Moves.fails (u := { s with int := { s.int with bd := b, point := .hc } })
      ⟨⟨⟨rfl, id⟩, rfl⟩, rfl, rfl⟩ (by decide))
  · exact .inr ⟨by omega, rfl⟩

/-- The descriptor recorded in `DESC` (R10). -/
def State.withDesc (h : Byte) (s : State) : State :=
  { s with res := { s.res with desc := descWord s.int.flg s.int.bd h } }

/-- The HC byte: the command fails, or the flags are latched and the header goes on (R167, R169). -/
theorem hcState_cases (h : Byte) (s : State) :
    Fails s (hcState h s)
      ∨ hcState h s = { latchFlags (s.withDesc h) with
          int := { (latchFlags (s.withDesc h)).int with point := .csize } }
      ∨ hcState h s = afterCsize (latchFlags (s.withDesc h)) := by
  have moved : Moves s (s.withDesc h) := ⟨⟨⟨rfl, id⟩, rfl⟩, rfl, rfl⟩
  simp only [hcState]
  split_ifs
  · exact .inl (moved.fails (by decide))
  · exact .inl (moved.fails (by decide))
  · exact .inr (.inl rfl)
  · exact .inr (.inr rfl)

/-- A stored block's payload copied, `ip` and `op` past it (R172). -/
def State.copyPayload (s : State) : State :=
  let s1 := (s.outWrite s.int.op.toNat (s.inBytes s.int.ip.toNat s.int.blkSize.toNat)).skip s.int.blkSize.toNat
  { s1 with int := { s1.int with op := w32 (s1.int.op.toNat + s.int.blkSize.toNat) } }

theorem tidy_copyPayload (s : State) : Tidy s s.copyPayload :=
  ⟨tame_outWrite s s.int.op.toNat (s.inBytes s.int.ip.toNat s.int.blkSize.toNat), rfl⟩

/-- Step B4's first assignment. -/
def State.markStart (s : State) : State := { s with int := { s.int with bstart := s.int.op } }

/-- A block's payload: the command fails, the raw bytes are copied, or the decoder is set up (step B4). -/
theorem startPayload_cases (s : State) :
    Fails s (startPayload s) ∨ startPayload s = closeBlock s.markStart.copyPayload
      ∨ startPayload s = tokenPayload s.markStart := by
  have moved : Moves s s.markStart := ⟨⟨⟨rfl, id⟩, rfl⟩, rfl, rfl⟩
  simp only [startPayload, storedPayload]
  split_ifs
  · exact .inl (moved.fails (by decide))
  · exact .inr (.inl rfl)
  · exact .inr (.inr rfl)

/-- A block size word taken: `ip` past it, its stored bit and size kept (steps B1, B2). -/
def State.takeSize (stored : Bool) (size : BitVec 31) (s : State) : State :=
  { s.skip 4 with int := { (s.skip 4).int with blkStored := stored, blkSize := size } }

/-- A block size word: the command fails, or payload and checksum are there and are read next (R170, R171). -/
theorem bsizeState_cases (stored : Bool) (size : BitVec 31) (s : State) :
    Fails s (bsizeState stored size s)
      ∨ (size.toNat + 4 * s.int.bck.toNat ≤ s.opr.inLen.toNat - (w32 (s.int.ip.toNat + 4)).toNat
        ∧ ((s.int.bck = true ∧ bsizeState stored size s
              = { s.takeSize stored size with int := { (s.takeSize stored size).int with point := .bck } })
          ∨ (s.int.bck = false ∧ bsizeState stored size s = startPayload (s.takeSize stored size)))) := by
  have moved : Moves s (s.takeSize stored size) := ⟨⟨⟨rfl, id⟩, rfl⟩, rfl, rfl⟩
  simp only [bsizeState]
  split_ifs with h1 h2 h3
  · exact .inl (moved.fails (by decide))
  · exact .inl (moved.fails (by decide))
  · exact .inr ⟨Nat.le_of_not_lt h2, .inl ⟨h3, rfl⟩⟩
  · exact .inr ⟨Nat.le_of_not_lt h2, .inr ⟨by simpa using h3, rfl⟩⟩

theorem bckState_cases (k : Word) (s : State) :
    Fails s (bckState k s) ∨ bckState k s = startPayload s := by
  unfold bckState
  split_ifs
  · exact .inl (fails_raiseAtCursors (by decide) s)
  · exact .inr rfl

/-- The end of DFRAME: the content size is wrong, or the command ends (R177). -/
theorem closeFrame_cases (s : State) :
    Fails s (closeFrame s)
      ∨ closeFrame s = { s with status := { s.status with fsm := .finished } }.finish s.int.op s.int.ip := by
  unfold closeFrame
  split_ifs
  · exact .inl (fails_raiseAtCursors (by decide) s)
  · exact .inr rfl

/-- The EndMark taken (step E1). -/
def State.takeEndmark (s : State) : State := { s with status := { s.status with fsm := .endMark } }.skip 4

theorem endmarkState_cases (s : State) :
    endmarkState s = { s.takeEndmark with int := { s.takeEndmark.int with point := .cck } }
      ∨ endmarkState s = closeFrame s.takeEndmark := by
  simp only [endmarkState]
  split_ifs
  · exact .inl rfl
  · exact .inr rfl

/-- The content checksum of the output, reported in `CKSUM` (step E2). -/
def State.withCksum (s : State) : State := { s with res := { s.res with cksum := ck32 s.cfg s.int.cc } }

theorem cckState_cases (k : Word) (s : State) :
    Fails s (cckState k s) ∨ cckState k s = closeFrame (s.withCksum.skip 4) := by
  simp only [cckState]
  split_ifs
  · exact .inl (Moves.fails (u := s.withCksum) ⟨⟨⟨rfl, id⟩, rfl⟩, rfl, rfl⟩ (by decide))
  · exact .inr rfl

/-! ### Elements keep operands, data and table -/

theorem terminalState_tidy (s : State) : Tidy s (terminalState s) := by
  rcases terminalState_cases s with ⟨-, h | h⟩ | ⟨-, h⟩
  · exact h.tidy
  · exact h ▸ tidy_finish ..
  · exact h ▸ tidy_closeBlock s

theorem afterCsize_tidy (s : State) : Tidy s (afterCsize s) := by
  unfold afterCsize
  split_ifs <;> exact ⟨⟨rfl, id⟩, rfl⟩

theorem hcState_tidy (h : Byte) (s : State) : Tidy s (hcState h s) := by
  rcases hcState_cases h s with hf | he | he
  · exact hf.tidy
  · exact he ▸ ⟨⟨rfl, id⟩, rfl⟩
  · exact he ▸ Tidy.trans ⟨⟨rfl, id⟩, rfl⟩ (afterCsize_tidy _)

theorem bdState_tidy (b : Byte) (s : State) : Tidy s (bdState b s) := by
  rcases bdState_cases b s with hf | ⟨-, he⟩
  · exact hf.tidy
  · exact he ▸ ⟨⟨rfl, id⟩, rfl⟩

theorem startPayload_tidy (s : State) : Tidy s (startPayload s) := by
  have marked : Tidy s s.markStart := ⟨⟨rfl, id⟩, rfl⟩
  rcases startPayload_cases s with hf | he | he
  · exact hf.tidy
  · exact he ▸ marked.trans ((tidy_copyPayload _).trans (tidy_closeBlock _))
  · exact he ▸ marked.trans (tidy_tokenPayload _)

theorem bsizeState_tidy (stored : Bool) (size : BitVec 31) (s : State) : Tidy s (bsizeState stored size s) := by
  rcases bsizeState_cases stored size s with hf | ⟨-, ⟨-, he⟩ | ⟨-, he⟩⟩
  · exact hf.tidy
  · exact he ▸ ⟨⟨rfl, id⟩, rfl⟩
  · exact he ▸ Tidy.trans ⟨⟨rfl, id⟩, rfl⟩ (startPayload_tidy _)

theorem closeFrame_tidy (s : State) : Tidy s (closeFrame s) := by
  rcases closeFrame_cases s with hf | he
  · exact hf.tidy
  · exact he ▸ Tidy.trans ⟨⟨rfl, id⟩, rfl⟩ (tidy_finish ..)

theorem elementState_tidy (i : Instr) (s : State) : Tidy s (elementState i s) := by
  cases i with
  | seq lit off mlen =>
    rcases seqState_cases lit off mlen s with hf | he
    · exact hf.tidy
    · rw [elementState, he]
      exact (moves_seqDone ..).tidy
  | last lit mc =>
    rcases lastState_cases lit mc s with hf | he
    · exact hf.tidy
    · rw [elementState, he]
      exact (moves_literals ..).tidy.trans (terminalState_tidy _)
  | bd code => exact bdState_tidy ..
  | csize v => exact Tidy.trans ⟨⟨rfl, id⟩, rfl⟩ (afterCsize_tidy _)
  | hc h => exact hcState_tidy ..
  | bsize stored size => exact bsizeState_tidy ..
  | bck k =>
    rcases bckState_cases k s with hf | he
    · exact hf.tidy
    · rw [elementState, he]
      exact startPayload_tidy s
  | endmark =>
    rcases endmarkState_cases s with he | he <;> rw [elementState, he]
    · exact ⟨⟨rfl, id⟩, rfl⟩
    · exact Tidy.trans ⟨⟨rfl, id⟩, rfl⟩ (closeFrame_tidy _)
  | cck k =>
    rcases cckState_cases k s with hf | he
    · exact hf.tidy
    · rw [elementState, he]
      exact Tidy.trans ⟨⟨rfl, id⟩, rfl⟩ (closeFrame_tidy _)
  | _ => exact ⟨⟨rfl, id⟩, rfl⟩

theorem rejectElement_tidy (r : Reject) (s : State) : Tidy s (rejectElement r s) := by
  cases r with
  | badFlg b => exact ⟨⟨rfl, id⟩, rfl⟩
  | badBd b => exact bdState_tidy b s
  | reservedOpcode b => exact ⟨tame_illegalOpcode b s, rfl⟩
  | short => exact (fails_raiseAtCursors (by decide) s).tidy
  | badMagic => exact (fails_raiseAtCursors (by decide) s).tidy
  | _ => exact (rejectToken_fails _ s).tidy

theorem readElement_tidy (site : Site) (s : State) : Tidy s (readElement site s) := by
  unfold readElement
  split
  · exact elementState_tidy ..
  · exact rejectElement_tidy ..

/-! ### The encoder and the frame writer keep operands and data -/

theorem tame_matchResult (r : Option (Nat × Nat)) (s : State) : Tame s (s.matchResult r) := by
  rcases r with _ | ⟨off, len⟩ <;> exact ⟨rfl, id⟩

theorem tame_writeHeader (s : State) : Tame s (writeHeader s) :=
  (tame_outWrite s 0 (magicBytes ++ writerDescriptor s.cfg s.opr.options s.opr.inLen.toNat
    ++ [headerByte s.cfg (writerDescriptor s.cfg s.opr.options s.opr.inLen.toNat)])).trans
    ((tame_mfClear _).trans ⟨rfl, id⟩)

theorem enter_tame (c : Cmd) (s : State) : Tame s (enter c s) := by
  cases c with
  | cbound => exact tame_endDone _
  | mfclr => exact (tame_mfClear s).trans (tame_endDone _)
  | dframe => exact ⟨rfl, id⟩
  | cblock =>
    simp only [enter, enterCblock]
    split_ifs
    · exact tame_raise ..
    · exact tame_mfClear s
  | dblock =>
    simp only [enter, enterDblock]
    split_ifs
    · exact tame_raise ..
    · exact ⟨rfl, id⟩
  | cframe =>
    simp only [enter, enterCframe]
    split_ifs
    · exact Tame.trans ⟨rfl, id⟩ (tame_raise ..)
    · exact Tame.trans ⟨rfl, id⟩ (tame_writeHeader _)
  | mffind =>
    simp only [enter, enterMffind]
    split_ifs
    · exact tame_raise ..
    · exact (tame_mfFind ..).trans ((tame_matchResult ..).trans (tame_endDone _))
  | mfins =>
    simp only [enter, enterMfins]
    split_ifs
    · exact tame_raise ..
    · exact (tame_mfInsert ..).trans (tame_endDone _)

/-- Only `OUT` and `op` have moved: what a write at `op` keeps. -/
structure Writes (s u : State) : Prop where
  tame : Tame s u
  status : u.status = s.status
  err : u.err = s.err
  int : u.int = { s.int with op := u.int.op }

theorem writes_refl (s : State) : Writes s s := ⟨Tame.refl s, rfl, rfl, rfl⟩

theorem Writes.trans {s t u : State} (h : Writes s t) (h' : Writes t u) : Writes s u :=
  ⟨h.tame.trans h'.tame, h'.status.trans h.status, h'.err.trans h.err, by rw [h'.int, h.int]⟩

theorem writes_outWrite (s : State) (a : Nat) (bs : List Byte) : Writes s (s.outWrite a bs) :=
  ⟨tame_outWrite s a bs, rfl, rfl, rfl⟩

theorem writes_emit (bs : List Byte) (s : State) : Writes s (s.emit bs) := ⟨tame_emit bs s, rfl, rfl, rfl⟩

theorem writes_emitLast (s : State) : Writes s s.emitLast := writes_emit ..

/-- The loop of `EncodeRegion` has passed a match: `pos` and `anchor` at `n` (R123). -/
def State.pastMatch (n : Nat) (s : State) : State := { s with int := { s.int with pos := w32 n, anchor := w32 n } }

/-- A match writes its SEQ, then passes it. -/
theorem emitMatch_cases (off len : Nat) (s : State) : ∃ u, Writes s u ∧
    let m := s.mfExtendBack s.int.pos.toNat off len s.int.anchor.toNat s.int.winLo.toNat
    s.emitMatch off len = u.pastMatch (m.1 + m.2) :=
  ⟨_, writes_emit .., rfl⟩

/-- `pos` of the loop of `EncodeRegion` moved to `n` (R123). -/
def State.atPos (n : Nat) (s : State) : State := { s with int := { s.int with pos := w32 n } }

/-- One position of a region: a literal, or a match that the lookup has found (R123). -/
theorem scanOne_cases (s : State) :
    let r := s.mfFind s.int.pos.toNat s.int.winLo.toNat s.int.mlimit.toNat
    (r.1 = none ∧ scanOne s = r.2.atPos (s.int.pos.toNat + 1))
      ∨ ∃ off len, r.1 = some (off, len) ∧ scanOne s = r.2.emitMatch off len := by
  simp only [scanOne]
  split <;> rename_i h
  · exact .inl ⟨h, rfl⟩
  · exact .inr ⟨_, _, h, rfl⟩

theorem tame_emitMatch (off len : Nat) (s : State) : Tame s (s.emitMatch off len) := by
  obtain ⟨u, hu, he⟩ := emitMatch_cases off len s
  exact he ▸ hu.tame.trans ⟨rfl, id⟩

theorem scanOne_tame (s : State) : Tame s (scanOne s) := by
  have found := tame_mfFind s.int.pos.toNat s.int.winLo.toNat s.int.mlimit.toNat s
  rcases scanOne_cases s with ⟨-, he⟩ | ⟨off, len, -, he⟩
  · exact he ▸ found.trans ⟨rfl, id⟩
  · exact he ▸ found.trans (tame_emitMatch ..)

theorem writes_settlePayload (s : State) : Writes s (settlePayload s).1 := by
  simp only [settlePayload]
  split_ifs
  · exact writes_outWrite ..
  · exact writes_refl s

/-- The size word of a settled data block written, `op` behind its payload (step W2). -/
def writeSizeWord (r : State × Nat × Bool) : State :=
  let s := r.1.outWrite (r.1.int.ob.toNat - 4) (leBytes 4 (blockWord r.2.2 r.2.1))
  { s with int := { s.int with op := w32 (r.1.int.ob.toNat + r.2.1) } }

/-- The checksum of a payload of `plen` bytes written, where blocks have one (step W2). -/
def writeBlockCksum (plen : Nat) (s : State) : State :=
  if s.int.bck then s.emit (leBytes 4 (ck32 s.cfg (s.outBytes s.int.ob.toNat plen)).toNat) else s

/-- The raw bytes fed to the content checksum, the block counted (step W2). -/
def countRegion (s : State) : State :=
  let fed := if s.int.cck then s.inBytes s.int.blkLo.toNat (s.int.blkHi.toNat - s.int.blkLo.toNat) else []
  { s with
    res := { s.res with blockIdx := s.res.blockIdx + 1#32 }
    int := { s.int with cc := s.int.cc ++ fed, pos := s.int.blkHi, point := .nextBlock } }

/-- The parts of the end of a data block. -/
theorem endFrameBlock_eq (s : State) :
    endFrameBlock s = countRegion (writeBlockCksum (settlePayload s).2.1 (writeSizeWord (settlePayload s))) := rfl

theorem writes_writeSizeWord (r : State × Nat × Bool) : Writes r.1 (writeSizeWord r) :=
  ⟨(writes_outWrite r.1 (r.1.int.ob.toNat - 4) (leBytes 4 (blockWord r.2.2 r.2.1))).tame.trans ⟨rfl, id⟩, rfl, rfl, rfl⟩

theorem writes_writeBlockCksum (plen : Nat) (s : State) : Writes s (writeBlockCksum plen s) := by
  unfold writeBlockCksum
  split_ifs
  · exact writes_emit ..
  · exact writes_refl s

/-- The end of a data block writes, then counts the block and feeds its raw bytes. -/
theorem endFrameBlock_cases (s : State) : ∃ u, Writes s u ∧ endFrameBlock s = countRegion u :=
  ⟨_, (writes_settlePayload s).trans <| (writes_writeSizeWord _).trans (writes_writeBlockCksum ..), endFrameBlock_eq s⟩

theorem tame_countRegion (s : State) : Tame s (countRegion s) := ⟨rfl, id⟩

theorem endFrameBlock_tame (s : State) : Tame s (endFrameBlock s) := by
  obtain ⟨u, hu, he⟩ := endFrameBlock_cases s
  exact he ▸ hu.tame.trans (tame_countRegion u)

theorem endCblock_tame (s : State) : Tame s (endCblock s) := by
  simp only [endCblock]
  split_ifs
  · exact (tame_outWrite s 0 _).trans (Tame.trans ⟨rfl, id⟩ (tame_finish ..))
  · exact Tame.trans ⟨rfl, id⟩ (tame_finish ..)

theorem scanState_tame (s : State) : Tame s (scanState s) := by
  unfold scanState
  split_ifs
  · exact scanOne_tame s
  · exact (writes_emitLast s).tame.trans (endFrameBlock_tame _)
  · exact (writes_emitLast s).tame.trans (endCblock_tame _)

theorem nextBlock_tame (s : State) : Tame s (nextBlock s) := by
  simp only [nextBlock]
  split_ifs
  · exact tame_mfClear s
  · exact ⟨rfl, id⟩
  · exact ⟨rfl, id⟩

/-- The content checksum written, where the frame has one (step W3). -/
def writeContentCksum (s : State) : State :=
  if s.int.cck then
    { s with res := { s.res with cksum := ck32 s.cfg s.int.cc } }.emit (leBytes 4 (ck32 s.cfg s.int.cc).toNat)
  else s

theorem writes_writeContentCksum (s : State) : Writes s (writeContentCksum s) := by
  unfold writeContentCksum
  split_ifs
  · exact ⟨tame_emit (leBytes 4 (ck32 s.cfg s.int.cc).toNat)
      { s with res := { s.res with cksum := ck32 s.cfg s.int.cc } }, rfl, rfl, rfl⟩
  · exact writes_refl s

/-- The end of CFRAME writes the trailer, then ends the command. -/
theorem writeTrailer_cases (s : State) : ∃ u, Writes s u
    ∧ writeTrailer s = { u with status := { u.status with fsm := .finished } }.finish u.int.op u.opr.inLen :=
  ⟨_, (writes_emit (leBytes 4 0) s).trans (writes_writeContentCksum _), rfl⟩

theorem writeTrailer_tame (s : State) : Tame s (writeTrailer s) := by
  obtain ⟨u, hu, he⟩ := writeTrailer_cases s
  exact he ▸ hu.tame.trans (Tame.trans ⟨rfl, id⟩ (tame_finish ..))

/-- What the engine does at each point of a command's pseudocode. -/
theorem engineStep_cases (s : State) :
    (∃ site, s.int.point.site = some site ∧ engineStep s = readElement site s)
      ∨ (s.int.point = .idle ∧ engineStep s = s)
      ∨ (∃ c, s.int.point = .entry c ∧ engineStep s = enter c s)
      ∨ (s.int.point = .scan ∧ engineStep s = scanState s)
      ∨ (s.int.point = .nextBlock ∧ engineStep s = nextBlock s)
      ∨ (s.int.point = .trailer ∧ engineStep s = writeTrailer s) := by
  unfold engineStep
  cases s.int.point <;> simp [Point.site]

theorem engineStep_tame (s : State) : Tame s (engineStep s) := by
  rcases engineStep_cases s with ⟨site, -, he⟩ | ⟨-, he⟩ | ⟨c, -, he⟩ | ⟨-, he⟩ | ⟨-, he⟩ | ⟨-, he⟩ <;> rw [he]
  · exact (readElement_tidy site s).1
  · exact Tame.refl s
  · exact enter_tame c s
  · exact scanState_tame s
  · exact nextBlock_tame s
  · exact writeTrailer_tame s

theorem runEngine_tame (k : Nat) (s : State) : Tame s (runEngine k s) :=
  runEngine_induct (fun u _ hu => hu.trans (engineStep_tame u)) k (Tame.refl s)

theorem runCommand_tame (c : Cmd) (s : State) : Tame s (runCommand c s) := by
  unfold runCommand
  split_ifs
  · exact Tame.refl s
  · exact (tame_startCmd c s).trans (runEngine_tame ..)

/-- The instructions are the commands that run, ABORT, and the elements. -/
theorem exec_cases (i : Instr) (s : State) :
    (∃ c, commandOf i = some c ∧ exec i s = .next (runCommand c s)) ∨ (i = .abort ∧ exec i s = .next s.abandon)
      ∨ (i.site ≠ .cmd ∧ exec i s = .next (elementState i s)) := by
  by_cases h : i.site = .cmd
  · cases i
    case abort => exact .inr (.inl ⟨rfl, rfl⟩)
    case cbound | cblock | dblock | cframe | dframe | mfclr | mffind | mfins => exact .inl ⟨_, rfl, rfl⟩
    all_goals cases h
  · exact .inr (.inr ⟨h, exec_element h s⟩)

theorem exec_tame {i : Instr} {s t : State} (h : exec i s = .next t) : Tame s t := by
  rcases exec_cases i s with ⟨c, -, h'⟩ | ⟨-, h'⟩ | ⟨-, h'⟩ <;> rw [h'] at h <;> cases h
  · exact runCommand_tame c s
  · exact tame_abandon s
  · exact (elementState_tidy i s).1

end Sys2Proof.Machine
end

section
namespace Sys2Proof.Machine

/-! ### What bytes that are no element do -/

theorem decodeToken_error {bs : List Byte} {r : Reject} (h : decodeToken bs = .error r) (s : State) :
    rejectElement r s = rejectToken r s := by
  cases bs with
  | nil => cases h; rfl
  | cons t bs =>
    simp only [decodeToken] at h
    split at h
    · cases h; rfl
    · cases h; rfl
    · split at h
      · cases h; rfl
      · rename_i len _ rest _ _
        rcases hd : rest.drop len with _ | ⟨b0, _ | ⟨b1, bs'⟩⟩ <;> rw [hd] at h <;> simp only [decodeAfterLits] at h
        · cases h
        · cases h; rfl
        · split at h
          · cases h; rfl
          · split at h <;> cases h <;> rfl

/-- Of the bytes that are no element, only an illegal FLG or BD does not end the command at once: it waits for the header
checksum (R165, R169). -/
theorem decode_error_cases {site : Site} {bs : List Byte} {r : Reject} (h : decode site bs = .error r) (hs : site ≠ .cmd) :
    (site = .flg ∧ bs ≠ [] ∧ ∃ b, r = .badFlg b) ∨ (site = .bd ∧ bs ≠ [] ∧ ∃ b, r = .badBd b)
      ∨ ∀ s, Fails s (rejectElement r s) := by
  have short : r = .short → ∀ s, Fails s (rejectElement r s) := by
    rintro rfl s
    exact fails_raiseAtCursors (by decide) s
  cases site
  case cmd => exact absurd rfl hs
  case token => exact .inr (.inr fun s => decodeToken_error h s ▸ rejectToken_fails r s)
  case magic =>
    simp only [decode] at h
    split_ifs at h <;> cases h
    · exact .inr (.inr (short rfl))
    · exact .inr (.inr fun s => fails_raiseAtCursors (by decide) s)
  case flg =>
    cases bs with
    | nil => cases h; exact .inr (.inr (short rfl))
    | cons b bs =>
      simp only [decode, decodeFlg] at h
      split_ifs at h
      cases h
      exact .inl ⟨rfl, nofun, b, rfl⟩
  case bd =>
    cases bs with
    | nil => cases h; exact .inr (.inr (short rfl))
    | cons b bs =>
      simp only [decode, decodeBd] at h
      split_ifs at h
      cases h
      exact .inr (.inl ⟨rfl, nofun, b, rfl⟩)
  case hc => cases bs <;> cases h; exact .inr (.inr (short rfl))
  all_goals
    simp only [decode, takeLe] at h
    split_ifs at h <;> cases h
    exact .inr (.inr (short rfl))

/-- What the engine does where its pseudocode reads an element: the element's effect, that of a descriptor byte refused
later, or an error. -/
theorem readElement_cases {site : Site} (hs : site ≠ .cmd) (s : State) :
    (∃ i, decode site (s.fetchBytes site) = .ok i ∧ i.site = site ∧ readElement site s = elementState i s)
      ∨ (site = .flg ∧ s.fetchBytes site ≠ [] ∧ ∃ b, readElement site s = flgState b s)
      ∨ (site = .bd ∧ s.fetchBytes site ≠ [] ∧ ∃ b, readElement site s = bdState b s)
      ∨ Fails s (readElement site s) := by
  rcases h : decode site (s.fetchBytes site) with r | i
  · have hr : readElement site s = rejectElement r s := by rw [readElement, h]
    rw [hr]
    rcases decode_error_cases h hs with ⟨hs', hne, b, rfl⟩ | ⟨hs', hne, b, rfl⟩ | hf
    · exact .inr (.inl ⟨hs', hne, b, rfl⟩)
    · exact .inr (.inr (.inl ⟨hs', hne, b, rfl⟩))
    · exact .inr (.inr (.inr (hf s)))
  · exact .inl ⟨i, rfl, decode_site h, by rw [readElement, h]⟩

/-! ### The clauses of `State.statusOk` and `State.pointOk` -/

theorem State.statusOk_iff (s : State) : s.statusOk = true ↔
    (s.status.state = .error ↔ s.err ≠ .none)
      ∧ (s.status.stored = true → s.status.state = .done ∧ s.status.lastCmd = 0x02#8)
      ∧ (s.status.found = true → s.status.state = .done ∧ s.status.lastCmd = 0x11#8)
      ∧ (s.status.fsm = .none ∨ s.status.frameCmd = true)
      ∧ (s.status.fsm = .failed → s.status.state = .error)
      ∧ (s.status.fsmAt = .none ∨ s.status.fsm = .failed) := by
  have imp : ∀ (b : Bool) (P Q : Prop) [Decidable P] [Decidable Q],
      (!b || (decide P && decide Q)) = true ↔ (b = true → P ∧ Q) := by
    intro b P Q _ _
    cases b <;> simp
  simp only [State.statusOk, Bool.and_eq_true, imp, beq_iff_eq, decide_eq_decide, and_assoc, Bool.or_eq_true,
    decide_eq_true_eq, ne_eq, imp_iff_not_or]

/-- The command, by its opcode, whose pseudocode has a point; for the point in a token stream the mode tells DBLOCK from
DFRAME. -/
def Point.runs (exactMode : Bool) (c : Byte) : Point → Prop
  | .idle => False
  | .entry k => c = k.opcode
  | .scan => c = 0x02#8 ∨ c = 0x04#8
  | .tokens => c = if exactMode then 0x03#8 else 0x05#8
  | .nextBlock | .trailer => c = 0x04#8
  | .magic | .flg | .bd | .hc | .csize | .dictid | .block | .bck | .cck => c = 0x05#8

theorem State.pointOk_iff (s : State) : s.pointOk = true ↔
    (s.int.point = .idle ∧ s.busy = false) ∨ (s.busy = true ∧ s.int.point.runs s.int.exactMode s.status.lastCmd) := by
  unfold State.pointOk
  cases s.busy <;> cases s.int.point <;> simp [Point.runs]

theorem Point.eq_tokens_of_site {p : Point} (h : p.site = some .token) : p = .tokens := by
  cases p <;> first | rfl | cases h

/-- Every element but an encoded sequence is read by DFRAME only. -/
theorem Point.runs_of_site {p : Point} {site : Site} {exactMode : Bool} {c : Byte} (h : p.site = some site)
    (hne : site ≠ .token) (hr : p.runs exactMode c) : c = 0x05#8 := by
  cases p <;> cases h <;> first | exact hr | exact absurd rfl hne

/-! ### Control: `STATUS`, `ERR` and the point -/

/-- `STATUS` and `ERR` while the command with this opcode runs. -/
structure Running (c : Byte) (st : Status) (e : ErrCode) : Prop where
  state : st.state = .busy
  stored : st.stored = false
  found : st.found = false
  fsm : st.fsm = .none ∨ st.frameCmd = true
  fsm_ne : st.fsm ≠ .failed
  fsmAt : st.fsmAt = .none
  err : e = .none
  cmd : st.lastCmd = c

/-- `STATUS`, `ERR` and the point are as the invariant says, and `LAST_CMD` is the opcode `c`. -/
structure Controlled (c : Byte) (s : State) : Prop where
  status : s.statusOk = true
  point : s.pointOk = true
  cmd : s.status.lastCmd = c

variable {c : Byte} {s t : State}

theorem running_started (c : Byte) : Running c (Status.started c) .none :=
  ⟨rfl, rfl, rfl, .inl rfl, nofun, rfl, rfl, rfl⟩

/-- A frame command moves `FSM` on (R163, R180). -/
theorem Running.withFsm (h : Running c s.status s.err) (hf : s.status.frameCmd = true) {f : Fsm} (hne : f ≠ .failed) :
    Running c { s.status with fsm := f } s.err :=
  ⟨h.state, h.stored, h.found, .inr hf, hne, h.fsmAt, h.err, h.cmd⟩

/-- A command that goes on stands at a point of its own pseudocode. -/
theorem Running.controlled (h : Running c s.status s.err) (hr : s.int.point.runs s.int.exactMode c) : Controlled c s := by
  refine ⟨s.statusOk_iff.2 ?_, s.pointOk_iff.2 (.inr ⟨by simp [State.busy, h.state], h.cmd ▸ hr⟩), h.cmd⟩
  simp [h.state, h.stored, h.found, h.fsm, h.fsm_ne, h.fsmAt, h.err]

/-- A command whose state agrees with the invariant, and that has not ended, runs. -/
theorem Controlled.running (h : Controlled c s) (hb : s.busy = true) : Running c s.status s.err := by
  have hstate : s.status.state = .busy := by simpa [State.busy] using hb
  have hst := s.statusOk_iff.1 h.status
  simp only [hstate, reduceCtorEq, false_and, imp_false, false_iff, not_not] at hst
  obtain ⟨herr, hstored, hfound, hfsm, hne, hat⟩ := hst
  exact ⟨hstate, by simpa using hstored, by simpa using hfound, hfsm, hne, hat.resolve_right hne, herr, h.cmd⟩

/-- A command that is not idle runs, at a point of its pseudocode. -/
theorem Controlled.runs (h : Controlled c s) (hp : s.int.point ≠ .idle) :
    Running c s.status s.err ∧ s.int.point.runs s.int.exactMode c := by
  rcases s.pointOk_iff.1 h.point with ⟨hidle, -⟩ | ⟨hb, hr⟩
  · exact absurd hidle hp
  · exact ⟨h.running hb, h.cmd ▸ hr⟩

/-- Error entry (R205). -/
theorem Running.controlled_raise (h : Running c s.status s.err) {e : ErrCode} (he : e ≠ .none) (outLen inPos : Word) :
    Controlled c (s.raise e outLen inPos) := by
  refine ⟨(State.statusOk_iff _).2 ?_, (State.pointOk_iff _).2 (.inl ⟨rfl, ?_⟩), ?_⟩
  · rcases s.status.failed_cases with ⟨hf, hst⟩ | ⟨hf, hst⟩
    · simpa [hst, he, h.stored, h.found, Status.frameCmd] using hf
    · have hfsm : s.status.fsm = .none := h.fsm.resolve_right (by simp [hf])
      simp [hst, he, h.stored, h.found, h.fsmAt, hfsm]
  · simp [State.busy]
  · simpa using h.cmd

theorem Fails.controlled (hf : Fails s t) (h : Running c s.status s.err) : Controlled c t := by
  obtain ⟨u, e, hu, he, rfl⟩ := hf
  have hrun : Running c u.status u.err := by rwa [hu.status, hu.err]
  have hr := hrun.controlled_raise he u.int.op u.int.ip
  exact ⟨hr.status, hr.point, hr.cmd⟩

/-- A command ends without error; it may have set `STORED` if it is CBLOCK and `MATCH` if it is MFFIND (R12). -/
theorem Running.controlled_endDone {stored found : Bool} (h : Running c s.status s.err)
    (ht : t.status = { s.status with stored := stored, found := found }) (herr : t.err = s.err)
    (hst : stored = true → c = 0x02#8) (hfo : found = true → c = 0x11#8) : Controlled c t.endDone := by
  refine ⟨(State.statusOk_iff _).2 ?_, (State.pointOk_iff _).2 (.inl ⟨rfl, ?_⟩), ?_⟩
  · have hfsm : s.status.fsm = .none ∨ c = 0x04#8 ∨ c = 0x05#8 := by
      simpa [Status.frameCmd, h.cmd] using h.fsm
    simpa [ht, herr, h.err, h.fsmAt, h.cmd, h.fsm_ne, Status.frameCmd] using ⟨hst, hfo, hfsm⟩
  · simp [State.busy]
  · simpa [ht] using h.cmd

theorem Running.controlled_done (h : Running c s.status s.err) : Controlled c s.endDone := by
  refine h.controlled_endDone (stored := s.status.stored) (found := s.status.found) rfl rfl ?_ ?_
  · simp [h.stored]
  · simp [h.found]

theorem Running.controlled_finish (h : Running c s.status s.err) (outLen inPos : Word) :
    Controlled c (s.finish outLen inPos) :=
  Running.controlled_done (s := { s with res := { s.res with outLen := outLen, inPos := inPos } }) h

theorem controlled_illegalOpcode (b : Byte) (s : State) : Controlled b (s.illegalOpcode b) :=
  Running.controlled_raise (s := { s with status := Status.started b, err := .none, res := {} }) (running_started b)
    (by decide) ..

theorem controlled_abandon (s : State) : Controlled 0x1F#8 s.abandon := ⟨rfl, rfl, rfl⟩

theorem controlled_startCmd (k : Cmd) (s : State) : Controlled k.opcode (s.startCmd k) :=
  Running.controlled (s := s.startCmd k) (running_started k.opcode) rfl

end Sys2Proof.Machine
end

section
namespace Sys2Proof.Machine

section Control
variable {c : Byte} {s : State}

/-! ### DFRAME and DBLOCK keep control -/

theorem Running.frameCmd_of_reader (h : Running 0x05#8 s.status s.err) : s.status.frameCmd = true := by
  simp [Status.frameCmd, h.cmd]

theorem Moves.running {u : State} (hm : Moves s u) (h : Running c s.status s.err) : Running c u.status u.err := by
  rwa [hm.status, hm.err]

theorem openBlocks_controlled (h : Running 0x05#8 s.status s.err) : Controlled 0x05#8 (openBlocks s) :=
  Running.controlled (s := openBlocks s) (h.withFsm h.frameCmd_of_reader nofun) rfl

theorem afterCsize_controlled (h : Running 0x05#8 s.status s.err) : Controlled 0x05#8 (afterCsize s) := by
  unfold afterCsize
  split_ifs
  · exact Running.controlled (s := { s with int := { s.int with point := .dictid } }) h rfl
  · exact openBlocks_controlled h

theorem bdState_controlled (b : Byte) (h : Running 0x05#8 s.status s.err) : Controlled 0x05#8 (bdState b s) := by
  rcases bdState_cases b s with hf | ⟨-, he⟩
  · exact hf.controlled h
  · exact he ▸ Running.controlled (s := { s with int := { s.int with bd := b, point := .hc } }) h rfl

theorem flgState_controlled (b : Byte) (h : Running 0x05#8 s.status s.err) : Controlled 0x05#8 (flgState b s) :=
  Running.controlled (s := flgState b s) h rfl

theorem hcState_controlled (b : Byte) (h : Running 0x05#8 s.status s.err) : Controlled 0x05#8 (hcState b s) := by
  rcases hcState_cases b s with hf | he | he
  · exact hf.controlled h
  · exact he ▸ Running.controlled h rfl
  · exact he ▸ afterCsize_controlled h

theorem closeBlock_controlled (h : Running 0x05#8 s.status s.err) : Controlled 0x05#8 (closeBlock s) :=
  Running.controlled (s := closeBlock s) h rfl

theorem startPayload_controlled (h : Running 0x05#8 s.status s.err) : Controlled 0x05#8 (startPayload s) := by
  rcases startPayload_cases s with hf | he | he
  · exact hf.controlled h
  · exact he ▸ closeBlock_controlled h
  · exact he ▸ Running.controlled (s := tokenPayload s.markStart) h rfl

theorem bsizeState_controlled (stored : Bool) (size : BitVec 31) (h : Running 0x05#8 s.status s.err) :
    Controlled 0x05#8 (bsizeState stored size s) := by
  rcases bsizeState_cases stored size s with hf | ⟨-, ⟨-, he⟩ | ⟨-, he⟩⟩
  · exact hf.controlled h
  · exact he ▸ Running.controlled h rfl
  · exact he ▸ startPayload_controlled h

theorem closeFrame_controlled (h : Running 0x05#8 s.status s.err) : Controlled 0x05#8 (closeFrame s) := by
  rcases closeFrame_cases s with hf | he
  · exact hf.controlled h
  · rw [he]
    exact Running.controlled_finish (s := { s with status := { s.status with fsm := .finished } })
      (h.withFsm h.frameCmd_of_reader nofun) ..

theorem endmarkState_controlled (h : Running 0x05#8 s.status s.err) : Controlled 0x05#8 (endmarkState s) := by
  have taken : Running 0x05#8 s.takeEndmark.status s.takeEndmark.err := h.withFsm h.frameCmd_of_reader nofun
  rcases endmarkState_cases s with he | he
  · exact he ▸ Running.controlled taken rfl
  · exact he ▸ closeFrame_controlled taken

theorem terminalState_controlled (h : Running c s.status s.err) (hr : Point.tokens.runs s.int.exactMode c) :
    Controlled c (terminalState s) := by
  rcases terminalState_cases s with ⟨-, hf | he⟩ | ⟨hm, he⟩
  · exact hf.controlled h
  · exact he ▸ h.controlled_finish ..
  · obtain rfl : c = 0x05#8 := by simpa [Point.runs, hm] using hr
    exact he ▸ closeBlock_controlled h

/-- An element of a frame. -/
theorem frameElement_controlled {i : Instr} (h : Running 0x05#8 s.status s.err) (htok : i.site ≠ .token)
    (hcmd : i.site ≠ .cmd) : Controlled 0x05#8 (elementState i s) := by
  cases i with
  | magic => exact Running.controlled (s := magicState s) h rfl
  | flg => exact flgState_controlled _ h
  | bd => exact bdState_controlled _ h
  | hc => exact hcState_controlled _ h
  | csize => exact afterCsize_controlled h
  | dictid => exact openBlocks_controlled h
  | bsize => exact bsizeState_controlled _ _ h
  | bck k =>
    rcases bckState_cases k s with hf | he
    · exact hf.controlled h
    · rw [elementState, he]
      exact startPayload_controlled h
  | endmark => exact endmarkState_controlled h
  | cck k =>
    rcases cckState_cases k s with hf | he
    · exact hf.controlled h
    · rw [elementState, he]
      exact closeFrame_controlled h
  | seq | last => exact absurd rfl htok
  | _ => exact absurd rfl hcmd

/-- An encoded sequence. -/
theorem tokenElement_controlled {i : Instr} (h : Running c s.status s.err) (hp : s.int.point = .tokens)
    (hr : s.int.point.runs s.int.exactMode c) (htok : i.site = .token) : Controlled c (elementState i s) := by
  cases i with
  | seq lit off mlen =>
    rcases seqState_cases lit off mlen s with hf | he
    · exact hf.controlled h
    · rw [elementState, he]
      exact Running.controlled ((moves_seqDone lit off mlen s).running h) hr
  | last lit mc =>
    rcases lastState_cases lit mc s with hf | he
    · exact hf.controlled h
    · rw [elementState, he]
      exact terminalState_controlled ((moves_literals _ lit s).running h) (hp ▸ hr)
  | _ => cases htok

theorem readElement_controlled {site : Site} (h : Running c s.status s.err) (hr : s.int.point.runs s.int.exactMode c)
    (hs : s.int.point.site = some site) : Controlled c (readElement site s) := by
  rcases readElement_cases (Point.site_ne_cmd hs) s with ⟨i, -, rfl, he⟩ | ⟨rfl, -, b, he⟩ | ⟨rfl, -, b, he⟩ | hf
  · rw [he]
    by_cases htok : i.site = .token
    · exact tokenElement_controlled h (Point.eq_tokens_of_site (htok ▸ hs)) hr htok
    · obtain rfl := Point.runs_of_site hs htok hr
      exact frameElement_controlled h htok (Point.site_ne_cmd hs)
  · obtain rfl := Point.runs_of_site hs nofun hr
    exact he ▸ flgState_controlled b h
  · obtain rfl := Point.runs_of_site hs nofun hr
    exact he ▸ bdState_controlled b h
  · exact hf.controlled h

/-! ### The other commands keep control -/

theorem writeHeader_controlled (h : Running 0x04#8 s.status s.err) : Controlled 0x04#8 (writeHeader s) :=
  Running.controlled (s := writeHeader s) (h.withFsm (by simp [Status.frameCmd, h.cmd]) nofun) rfl

theorem enter_controlled {k : Cmd} (h : Running k.opcode s.status s.err) : Controlled k.opcode (enter k s) := by
  have untouched : ∀ {u : State} {e : ErrCode}, Running k.opcode u.status u.err → e ≠ .none →
      Controlled k.opcode (u.raiseUntouched e) := fun hu he => hu.controlled_raise he ..
  cases k with
  | cbound => exact Running.controlled_done (s := { s with res := _ }) h
  | mfclr => exact Running.controlled_done (s := s.mfClear) h
  | dframe => exact Running.controlled (s := enterDframe s) (h.withFsm h.frameCmd_of_reader nofun) rfl
  | cblock =>
    simp only [enter, enterCblock]
    split_ifs
    · exact untouched h nofun
    · exact Running.controlled (s := s.mfClear.openRegion 0 _ 0 0) h (.inl rfl)
  | dblock =>
    simp only [enter, enterDblock]
    split_ifs
    · exact untouched h nofun
    · exact Running.controlled h rfl
  | cframe =>
    have opened := h.withFsm (by simp [Status.frameCmd, h.cmd, Cmd.opcode]) (f := .header) nofun
    simp only [enter, enterCframe]
    split_ifs
    · exact untouched opened nofun
    · exact writeHeader_controlled opened
  | mffind =>
    simp only [enter, enterMffind]
    split_ifs
    · exact untouched h nofun
    · rcases (s.mfFind s.opr.pos.toNat s.opr.winLo.toNat s.opr.limit.toNat).1 with _ | ⟨off, len⟩
      · exact h.controlled_endDone (stored := s.status.stored) (found := false) rfl rfl (by simp [h.stored]) nofun
      · exact h.controlled_endDone (stored := s.status.stored) (found := true) rfl rfl (by simp [h.stored]) fun _ => rfl
  | mfins =>
    simp only [enter, enterMfins]
    split_ifs
    · exact untouched h nofun
    · exact Running.controlled_done (s := s.mfInsert _) h

theorem endCblock_controlled (h : Running 0x02#8 s.status s.err) : Controlled 0x02#8 (endCblock s) := by
  simp only [endCblock]
  split_ifs
  · exact h.controlled_endDone (stored := true) (found := s.status.found) rfl rfl (fun _ => rfl) (by simp [h.found])
  · exact h.controlled_endDone (stored := false) (found := s.status.found) rfl rfl nofun (by simp [h.found])

theorem Writes.running {u : State} (hu : Writes s u) (h : Running c s.status s.err) : Running c u.status u.err := by
  rwa [hu.status, hu.err]

theorem endFrameBlock_controlled (h : Running 0x04#8 s.status s.err) : Controlled 0x04#8 (endFrameBlock s) := by
  obtain ⟨u, hu, he⟩ := endFrameBlock_cases s
  exact he ▸ Running.controlled (s := countRegion u) (hu.running h) rfl

theorem scanOne_controlled (h : Running c s.status s.err) (hr : s.int.point.runs s.int.exactMode c) :
    Controlled c (scanOne s) := by
  rcases scanOne_cases s with ⟨-, he⟩ | ⟨off, len, -, he⟩
  · exact he ▸ Running.controlled h hr
  · obtain ⟨u, hu, hm⟩ := emitMatch_cases off len (s.mfFind s.int.pos.toNat s.int.winLo.toNat s.int.mlimit.toNat).2
    rw [he, hm]
    refine Running.controlled (s := u.pastMatch _) (hu.running h) ?_
    show u.int.point.runs u.int.exactMode c
    rw [hu.int]
    exact hr

theorem scanState_controlled (h : Running c s.status s.err) (hp : s.int.point = .scan)
    (hr : s.int.point.runs s.int.exactMode c) : Controlled c (scanState s) := by
  have hlast := (writes_emitLast s).running h
  have hc : c = 0x02#8 ∨ c = 0x04#8 := by rwa [hp] at hr
  unfold scanState
  rcases hc with rfl | rfl
  · rw [if_neg (c := s.status.frameCmd = true) (by simp [Status.frameCmd, h.cmd])]
    split_ifs
    · exact scanOne_controlled h hr
    · exact endCblock_controlled hlast
  · rw [if_pos (c := s.status.frameCmd = true) (by simp [Status.frameCmd, h.cmd])]
    split_ifs
    · exact scanOne_controlled h hr
    · exact endFrameBlock_controlled hlast

theorem nextBlock_controlled (h : Running 0x04#8 s.status s.err) : Controlled 0x04#8 (nextBlock s) := by
  simp only [nextBlock]
  split_ifs
  · exact Running.controlled (s := s.mfClear.openRegion ..) h (.inr rfl)
  · exact Running.controlled (s := s.openRegion ..) h (.inr rfl)
  · exact Running.controlled (h.withFsm (by simp [Status.frameCmd, h.cmd]) nofun) rfl

theorem writeTrailer_controlled (h : Running 0x04#8 s.status s.err) : Controlled 0x04#8 (writeTrailer s) := by
  obtain ⟨u, hu, he⟩ := writeTrailer_cases s
  have hrun := (hu.running h).withFsm (by simp [Status.frameCmd, (hu.running h).cmd]) (f := .finished) nofun
  exact he ▸ Running.controlled_finish (s := { u with status := { u.status with fsm := .finished } }) hrun ..

theorem engineStep_of_idle (h : s.int.point = .idle) : engineStep s = s := by
  rw [engineStep, h]

/-- Every step of the engine keeps `STATUS`, `ERR` and the point as the invariant says, and the command. -/
theorem engineStep_controlled (h : Controlled c s) : Controlled c (engineStep s) := by
  by_cases hidle : s.int.point = .idle
  · rwa [engineStep_of_idle hidle]
  obtain ⟨hrun, hr⟩ := h.runs hidle
  rcases engineStep_cases s with ⟨site, hsite, he⟩ | ⟨hp, -⟩ | ⟨k, hp, he⟩ | ⟨hp, he⟩ | ⟨hp, he⟩ | ⟨hp, he⟩
  · exact he ▸ readElement_controlled hrun hr hsite
  · exact absurd hp hidle
  · rw [hp] at hr
    obtain rfl : c = k.opcode := hr
    exact he ▸ enter_controlled hrun
  · exact he ▸ scanState_controlled hrun hp hr
  · rw [hp] at hr
    obtain rfl : c = 0x04#8 := hr
    exact he ▸ nextBlock_controlled hrun
  · rw [hp] at hr
    obtain rfl : c = 0x04#8 := hr
    exact he ▸ writeTrailer_controlled hrun

theorem runEngine_controlled (k : Nat) (h : Controlled c s) : Controlled c (runEngine k s) :=
  runEngine_induct (fun _ _ hu => engineStep_controlled hu) k h

end Control

end Sys2Proof.Machine
end

section
namespace Sys2Proof

/-! ### Little-endian fields and length codes -/

/-- A little-endian field holds the low bytes of the number (R4, R44). -/
theorem leNat_leBytes (k n : Nat) : leNat (leBytes k n) = n % 256 ^ k := by
  induction k generalizing n with
  | zero => simp [leBytes, leNat, Nat.mod_one]
  | succ k ih =>
    have hmod : n % 256 ^ (k + 1) = n % 256 + 256 * (n / 256 % 256 ^ k) := by rw [Nat.pow_succ', Nat.mod_mul]
    rw [leBytes, leNat, ih, BitVec.toNat_ofNat, hmod]

/-- The bytes of a field are its number's (R4, R44). -/
theorem leBytes_leNat (bs : List Byte) : leBytes bs.length (leNat bs) = bs := by
  induction bs with
  | nil => rfl
  | cons b bs ih =>
    have hlow : BitVec.ofNat 8 (b.toNat + 256 * leNat bs) = b := by
      apply BitVec.eq_of_toNat_eq
      have := b.isLt
      rw [BitVec.toNat_ofNat]
      omega
    have hhigh : (b.toNat + 256 * leNat bs) / 256 = leNat bs := by
      have := b.isLt
      omega
    rw [List.length_cons, leBytes, leNat, hlow, hhigh, ih]

theorem leNat_lt (bs : List Byte) : leNat bs < 256 ^ bs.length := by
  induction bs with
  | nil => simp [leNat]
  | cons b bs ih =>
    have := b.isLt
    rw [leNat, List.length_cons, Nat.pow_succ']
    omega

/-- The extension bytes of a number: 255 as often as it goes, then the rest (R66). -/
def extBytes (d : Nat) : List Byte := List.replicate (d / 255) 255#8 ++ [BitVec.ofNat 8 (d % 255)]

theorem extBytes_of_lt {d : Nat} (h : d < 255) : extBytes d = [BitVec.ofNat 8 d] := by
  rw [extBytes, Nat.div_eq_of_lt h, Nat.mod_eq_of_lt h]
  rfl

theorem extBytes_add (d : Nat) : extBytes (255 + d) = 255#8 :: extBytes d := by
  have hdiv : (255 + d) / 255 = d / 255 + 1 := by omega
  have hmod : (255 + d) % 255 = d % 255 := by omega
  rw [extBytes, hdiv, hmod]
  rfl

theorem encLen_eq (v : Nat) : encLen v = if v < Config.runMask then [] else extBytes (v - Config.runMask) := rfl

/-- What the extension loop has read when it is done: the extension bytes of what it has added. -/
theorem scanExt_done {maxV acc used v used' : Nat} {bs rest : List Byte}
    (h : scanExt maxV acc used bs = .done v used' rest) :
    acc ≤ v ∧ v ≤ maxV ∧ bs = extBytes (v - acc) ++ rest := by
  induction bs generalizing acc used with
  | nil => cases h
  | cons b bs ih =>
    have hb := b.isLt
    rw [scanExt] at h
    split_ifs at h with hmax h255
    · obtain ⟨hle, hv, rfl⟩ := ih h
      have h255' : b.toNat = 255 := by rw [h255]; rfl
      rw [h255'] at hle
      have hsub : v - acc = 255 + (v - (acc + b.toNat)) := by omega
      rw [hsub, extBytes_add, h255]
      exact ⟨by omega, hv, rfl⟩
    · cases h
      have hne : b.toNat ≠ 255 := fun hb => h255 (BitVec.eq_of_toNat_eq hb)
      rw [Nat.add_sub_cancel_left, extBytes_of_lt (by omega), BitVec.ofNat_toNat, BitVec.setWidth_eq]
      exact ⟨Nat.le_add_right .., Nat.le_of_not_lt hmax, rfl⟩

/-- The extension loop reads a number's extension bytes to their end (R66). -/
theorem scanExt_extBytes {maxV acc d : Nat} (used : Nat) (rest : List Byte) (h : acc + d ≤ maxV) :
    ∃ used', scanExt maxV acc used (extBytes d ++ rest) = .done (acc + d) used' rest := by
  induction d using Nat.strong_induction_on generalizing acc used with
  | _ d ih =>
    by_cases hd : d < 255
    · have hb : (BitVec.ofNat 8 d).toNat = d := by rw [BitVec.toNat_ofNat]; omega
      have hne : BitVec.ofNat 8 d ≠ 255#8 := by
        intro he
        rw [he] at hb
        exact absurd hb (by simp; omega)
      rw [extBytes_of_lt hd, List.singleton_append, scanExt, hb, if_neg (by omega), if_neg hne]
      exact ⟨_, rfl⟩
    · obtain ⟨e, rfl⟩ : ∃ e, d = 255 + e := ⟨d - 255, by omega⟩
      obtain ⟨used', hrest⟩ := ih e (by omega) (acc := acc + 255) (used + 1) (by omega)
      have h255 : (255#8).toNat = 255 := rfl
      rw [extBytes_add, List.cons_append, scanExt, h255, if_neg (by omega), if_pos rfl, hrest, Nat.add_assoc]
      exact ⟨_, rfl⟩

/-- Reading a length takes exactly the length's code and extension bytes (R66). -/
theorem scanLen_done {maxV code v used : Nat} {bs rest : List Byte} (hc : code < 16)
    (h : scanLen maxV code bs = .done v used rest) : lenCode v = code ∧ bs = encLen v ++ rest := by
  unfold scanLen at h
  rw [encLen_eq, lenCode, Config.runMask] at *
  split_ifs at h with h15
  · obtain ⟨hle, -, rfl⟩ := scanExt_done h
    exact ⟨by omega, by rw [if_neg (by omega), h15]⟩
  · cases h
    exact ⟨by omega, by rw [if_pos (by omega)]; rfl⟩

/-- A length's code and extension bytes are read as the length (R66). -/
theorem scanLen_encLen {maxV v : Nat} (rest : List Byte) (h : v ≤ maxV) :
    ∃ used, scanLen maxV (lenCode v) (encLen v ++ rest) = .done v used rest := by
  unfold scanLen
  rw [encLen_eq, lenCode, Config.runMask]
  by_cases hv : v < 15
  · rw [if_neg (by omega), if_pos hv, Nat.min_eq_left (by omega)]
    exact ⟨0, rfl⟩
  · obtain ⟨used, he⟩ := scanExt_extBytes (maxV := maxV) (acc := 15) (d := v - 15) 0 rest (by omega)
    rw [if_pos (by omega), if_neg hv, Nat.min_eq_right (by omega), he, Nat.add_sub_cancel' (by omega)]
    exact ⟨_, rfl⟩

/-! ### The token stream: what decodes is the encoding of what it decodes to -/

theorem lenCode_lt (v : Nat) : lenCode v < 16 := by
  rw [lenCode, Config.runMask]
  omega

/-- A token byte is its two codes (R65). -/
theorem tokenByte_toNat (litLen matchV : Nat) :
    (tokenByte litLen matchV).toNat = 16 * lenCode litLen + lenCode matchV := by
  have := lenCode_lt litLen
  have := lenCode_lt matchV
  rw [tokenByte, BitVec.toNat_ofNat]
  omega

theorem lastByte_toNat (litLen : Nat) (mc : BitVec 4) :
    (BitVec.ofNat 8 (16 * lenCode litLen + mc.toNat)).toNat = 16 * lenCode litLen + mc.toNat := by
  have := lenCode_lt litLen
  have := mc.isLt
  rw [BitVec.toNat_ofNat]
  omega

theorem decodeAfterLits_bytes {t : Byte} {lit bs : List Byte} {i : Instr} (hl : lenCode lit.length = t.toNat / 16)
    (h : decodeAfterLits t lit bs = .ok i) :
    ∃ rest, t :: encLen lit.length ++ lit ++ bs = encode i ++ rest ∧ ((∃ lit mc, i = .last lit mc) → rest = []) := by
  have ht := t.isLt
  match bs, h with
  | [], h =>
    cases h
    have hb : BitVec.ofNat 8 (16 * lenCode lit.length + (BitVec.ofNat 4 t.toNat).toNat) = t := by
      apply BitVec.eq_of_toNat_eq
      rw [lastByte_toNat, hl, BitVec.toNat_ofNat]
      omega
    exact ⟨[], by rw [encode, encodeLast, hb], fun _ => rfl⟩
  | [_], h => cases h
  | b0 :: b1 :: bs, h =>
    simp only [decodeAfterLits] at h
    split at h
    · cases h
    · split at h <;> cases h
      rename_i v used rest hscan
      obtain ⟨hm, rfl⟩ := scanLen_done (by omega) hscan
      have hb : tokenByte lit.length v = t := by
        apply BitVec.eq_of_toNat_eq
        rw [tokenByte_toNat, hl, hm]
        omega
      have hoff : leBytes 2 (BitVec.ofNat 16 (leNat [b0, b1])).toNat = [b0, b1] := by
        have hlt : leNat [b0, b1] < 2 ^ 16 := by simpa using leNat_lt [b0, b1]
        rw [BitVec.toNat_ofNat, Nat.mod_eq_of_lt hlt]
        exact leBytes_leNat [b0, b1]
      refine ⟨rest, ?_, fun ⟨_, _, he⟩ => nomatch he⟩
      rw [encode, encodeSeq, Nat.add_sub_cancel, hb, hoff]
      simp

/-- Bytes that decode to an encoded sequence begin with its encoding; a terminal sequence takes them all (R63 to R72). -/
theorem decodeToken_bytes {bs : List Byte} {i : Instr} (h : decodeToken bs = .ok i) :
    ∃ rest, bs = encode i ++ rest ∧ ((∃ lit mc, i = .last lit mc) → rest = []) := by
  match bs, h with
  | [], h => cases h
  | t :: bs, h =>
    have ht := t.isLt
    simp only [decodeToken] at h
    split at h
    · cases h
    · cases h
    · rename_i len used rest hscan
      split_ifs at h with hshort
      obtain ⟨hl, rfl⟩ := scanLen_done (by omega) hscan
      have hlen : (rest.take len).length = len := by simp; omega
      obtain ⟨rest', he, hlast⟩ := decodeAfterLits_bytes (by rw [hlen, hl]) h
      rw [hlen] at he
      exact ⟨rest', by rw [← he]; simp, hlast⟩

/-! ### Decoding an encoding -/

theorem decode_encode_last (lit : List Byte) (mc : BitVec 4) (h : (Instr.last lit mc).wf = true) :
    decodeToken (encode (.last lit mc)) = .ok (.last lit mc) := by
  have hlit : lit.length ≤ maxLit := by
    have : lit.length < 2 ^ 32 := by simpa [Instr.wf] using h
    rw [maxLit]; omega
  have hmc := mc.isLt
  obtain ⟨used, hscan⟩ := scanLen_encLen lit hlit
  have hcode : (16 * lenCode lit.length + mc.toNat) / 16 = lenCode lit.length := by omega
  have hmcode : BitVec.ofNat 4 (16 * lenCode lit.length + mc.toNat) = mc := by
    apply BitVec.eq_of_toNat_eq
    rw [BitVec.toNat_ofNat]
    omega
  simp only [encode, encodeLast, decodeToken, List.cons_append, lastByte_toNat, hcode, hscan, lt_irrefl, if_false,
    List.take_length, List.drop_length, decodeAfterLits, hmcode]

theorem decode_encode_seq (lit : List Byte) (off : BitVec 16) (mlen : Nat) (rest : List Byte)
    (h : (Instr.seq lit off mlen).wf = true) :
    decodeToken (encode (.seq lit off mlen) ++ rest) = .ok (.seq lit off mlen) := by
  obtain ⟨⟨⟨hlit, hoff⟩, hm4⟩, hm⟩ : ((lit.length < 2 ^ 32 ∧ off ≠ 0) ∧ 4 ≤ mlen) ∧ mlen < 2 ^ 32 := by
    simpa only [Instr.wf, Bool.and_eq_true, decide_eq_true_eq] using h
  have hl := lenCode_lt lit.length
  have hv := lenCode_lt (mlen - Config.minMatch)
  obtain ⟨used, hscan⟩ := scanLen_encLen (maxV := maxLit) (v := lit.length)
    (lit ++ (leBytes 2 off.toNat ++ (encLen (mlen - Config.minMatch) ++ rest))) (by rw [maxLit]; omega)
  obtain ⟨used', hscan'⟩ := scanLen_encLen (maxV := maxMatchCode) (v := mlen - Config.minMatch) rest
    (by rw [maxMatchCode, Config.minMatch]; omega)
  have hcode : (16 * lenCode lit.length + lenCode (mlen - Config.minMatch)) / 16 = lenCode lit.length := by omega
  have hmcode : (16 * lenCode lit.length + lenCode (mlen - Config.minMatch)) % 16 = lenCode (mlen - Config.minMatch) := by
    omega
  have hoffs : BitVec.ofNat 16 (leNat (leBytes 2 off.toNat)) = off := by
    rw [leNat_leBytes, Nat.mod_eq_of_lt (show off.toNat < 256 ^ 2 from off.isLt), BitVec.ofNat_toNat, BitVec.setWidth_eq]
  have hmlen : mlen - Config.minMatch + Config.minMatch = mlen := Nat.sub_add_cancel hm4
  simp only [leBytes, List.cons_append, List.nil_append] at hscan hoffs
  simp only [encode, encodeSeq, decodeToken, List.cons_append, List.append_assoc, tokenByte_toNat, hcode, hscan,
    List.length_append, not_lt.2 (Nat.le_add_right _ _), if_false, List.take_left, List.drop_left, decodeAfterLits,
    leBytes, List.nil_append, hoffs, hoff, hmcode, hscan', hmlen]

theorem takeLe_leBytes (k n : Nat) (rest : List Byte) : takeLe k (leBytes k n ++ rest) = .ok (n % 256 ^ k) := by
  have hlen := leBytes_length k n
  rw [takeLe, if_neg (by simp [hlen]), List.take_left' hlen, leNat_leBytes]

theorem decode_encode_flg (indep bck csz cck rsv did : Bool) :
    decodeFlg (flgByte indep bck csz cck rsv did) = .ok (.flg indep bck csz cck rsv did) := by
  revert indep bck csz cck rsv did
  decide

theorem decode_encode_bd (code : BitVec 3) : decodeBd (bdByte code) = .ok (.bd code) := by
  revert code
  decide

theorem decodeBlockWord_blockWord (stored : Bool) (size : BitVec 31) (h : (Instr.bsize stored size).wf = true) :
    decodeBlockWord (blockWord stored size.toNat) = .bsize stored size := by
  have hs := size.isLt
  cases stored with
  | false =>
    have hne : size.toNat ≠ 0 := fun h0 => by
      have hz : size = 0 := BitVec.eq_of_toNat_eq h0
      simp [Instr.wf, hz] at h
    have hw : blockWord false size.toNat = size.toNat := by simp [blockWord]
    rw [hw, decodeBlockWord, if_neg hne, decide_eq_false (by omega), BitVec.ofNat_toNat, BitVec.setWidth_eq]
  | true =>
    have hlow : BitVec.ofNat 31 (size.toNat + 2 ^ 31) = size := by
      apply BitVec.eq_of_toNat_eq
      rw [BitVec.toNat_ofNat]
      omega
    have hw : blockWord true size.toNat = size.toNat + 2 ^ 31 := by simp [blockWord]
    rw [hw, decodeBlockWord, if_neg (by omega), decide_eq_true (by omega), hlow]

theorem takeLe_word (v : Word) (rest : List Byte) : takeLe 4 (leBytes 4 v.toNat ++ rest) = .ok v.toNat := by
  rw [takeLe_leBytes, Nat.mod_eq_of_lt (show v.toNat < 256 ^ 4 from v.isLt)]

theorem w32_toNat (v : Word) : w32 v.toNat = v := by
  rw [w32, BitVec.ofNat_toNat, BitVec.setWidth_eq]

/-- Decoding the encoding of a well-formed instruction gives the instruction, whatever follows it; a terminal sequence
is followed by nothing (R64 to R87). -/
theorem decode_encode (i : Instr) (rest : List Byte) (h : i.wf = true) (hlast : (∃ lit mc, i = .last lit mc) → rest = []) :
    decode i.site (encode i ++ rest) = .ok i := by
  cases i with
  | seq lit off mlen => exact decode_encode_seq lit off mlen rest h
  | last lit mc =>
    rw [hlast ⟨lit, mc, rfl⟩, List.append_nil]
    exact decode_encode_last lit mc h
  | flg => exact decode_encode_flg ..
  | bd code => exact decode_encode_bd code
  | csize v =>
    have hv : takeLe 8 (leBytes 8 v.toNat ++ rest) = .ok v.toNat := by
      rw [takeLe_leBytes, Nat.mod_eq_of_lt (show v.toNat < 256 ^ 8 from v.isLt)]
    simp only [Instr.site, encode, decode, hv, Except.map, BitVec.ofNat_toNat, BitVec.setWidth_eq]
  | dictid v => simp only [Instr.site, encode, decode, takeLe_word, Except.map, w32_toNat]
  | bck k => simp only [Instr.site, encode, decode, takeLe_word, Except.map, w32_toNat]
  | cck k => simp only [Instr.site, encode, decode, takeLe_word, Except.map, w32_toNat]
  | bsize stored size =>
    have hlt : blockWord stored size.toNat < 256 ^ 4 := by
      have := size.isLt
      cases stored <;> simp [blockWord] <;> omega
    simp only [Instr.site, encode, decode, takeLe_leBytes, Nat.mod_eq_of_lt hlt, Except.map,
      decodeBlockWord_blockWord stored size h]
  | endmark => rfl
  | _ => rfl

end Sys2Proof
end

section
namespace Sys2Proof.Machine

/-! ### What a check has found to be there -/

theorem encode_length (i : Instr) : (encode i).length = i.size := by
  cases i with
  | seq => exact (Laws.EncodingSize.seq ..).1
  | last => exact (Laws.EncodingSize.last ..).1
  | csize | dictid | bck | cck | bsize | endmark => exact leBytes_length ..
  | _ => rfl

theorem decode_ne_nil {site : Site} {bs : List Byte} {i : Instr} (h : decode site bs = .ok i) : bs ≠ [] := by
  rintro rfl
  cases site <;> cases h

/-- Bytes are read from `IN` only where they all are in the input (R162, `need`). -/
theorem fetchBytes_ne_nil {s : State} {site : Site} (hs : site ≠ .token) (h : s.fetchBytes site ≠ []) :
    s.int.fetchAt site + siteNeed site ≤ s.opr.inLen.toNat := by
  by_contra hlt
  refine h ?_
  cases site <;> first | exact absurd rfl hs | exact if_pos (Nat.lt_of_not_le hlt)

/-- An encoded sequence that is read ends within the token stream (R143). -/
theorem token_fits {s : State} {i : Instr} (h : decode .token (s.fetchBytes .token) = .ok i) :
    s.int.ip.toNat + i.size ≤ s.int.inEnd.toNat := by
  obtain ⟨rest, he, -⟩ := decodeToken_bytes h
  have hpos : s.fetchBytes .token ≠ [] := decode_ne_nil h
  have hlen : (s.fetchBytes .token).length = s.int.inEnd.toNat - s.int.ip.toNat := s.inBytes_length ..
  have hsize : i.size ≤ (s.fetchBytes .token).length := by
    rw [← encode_length, he, List.length_append]
    exact Nat.le_add_right ..
  have := List.length_pos_iff.2 hpos
  omega

/-! ### The cursors -/

section Cursors
variable {s t : State}

theorem cursorsOk_of_idle (h : s.int.point = .idle) : s.cursorsOk = true := by
  rw [State.cursorsOk, h]

theorem Fails.cursorsOk (h : Fails s t) : t.cursorsOk = true := cursorsOk_of_idle h.point

/-! ### DFRAME and DBLOCK keep the cursors -/

theorem flgState_cursorsOk (b : Byte) (h : s.int.ip.toNat + 3 ≤ s.opr.inLen.toNat) : (flgState b s).cursorsOk = true :=
  decide_eq_true h

theorem bdState_cursorsOk (b : Byte) (s : State) : (bdState b s).cursorsOk = true := by
  rcases bdState_cases b s with hf | ⟨hfit, he⟩
  · exact hf.cursorsOk
  · exact he ▸ decide_eq_true hfit

theorem openBlocks_cursorsOk (h : s.int.ip.toNat + descLen s.int.flg + 1 ≤ s.opr.inLen.toNat) :
    (openBlocks s).cursorsOk = true :=
  decide_eq_true ((toNat_w32_le _).trans h)

theorem afterCsize_cursorsOk (h : s.int.ip.toNat + descLen s.int.flg + 1 ≤ s.opr.inLen.toNat) :
    (afterCsize s).cursorsOk = true := by
  unfold afterCsize
  split_ifs
  · exact decide_eq_true h
  · exact openBlocks_cursorsOk h

theorem hcState_cursorsOk (b : Byte) (h : s.int.ip.toNat + descLen s.int.flg + 1 ≤ s.opr.inLen.toNat) :
    (hcState b s).cursorsOk = true := by
  rcases hcState_cases b s with hf | he | he
  · exact hf.cursorsOk
  · exact he ▸ decide_eq_true h
  · exact he ▸ afterCsize_cursorsOk h

theorem closeBlock_cursorsOk (h : s.int.ip.toNat + 4 * s.int.bck.toNat ≤ s.opr.inLen.toNat) :
    (closeBlock s).cursorsOk = true :=
  decide_eq_true ((toNat_w32_le _).trans h)

theorem startPayload_cursorsOk
    (h : s.int.ip.toNat + s.int.blkSize.toNat + 4 * s.int.bck.toNat ≤ s.opr.inLen.toNat) :
    (startPayload s).cursorsOk = true := by
  rcases startPayload_cases s with hf | he | he
  · exact hf.cursorsOk
  · have hip : s.markStart.copyPayload.int.ip.toNat ≤ s.int.ip.toNat + s.int.blkSize.toNat := toNat_w32_le _
    exact he ▸ closeBlock_cursorsOk ((Nat.add_le_add_right hip _).trans h)
  · have hn := s.opr.inLen.isLt
    have hend : (w32 (s.int.ip.toNat + s.int.blkSize.toNat)).toNat = s.int.ip.toNat + s.int.blkSize.toNat :=
      toNat_w32 (by omega)
    rw [he]
    simpa [State.cursorsOk, tokenPayload, State.markStart, hend] using h

theorem bsizeState_cursorsOk (stored : Bool) (size : BitVec 31) (h : s.int.ip.toNat + 4 ≤ s.opr.inLen.toNat) :
    (bsizeState stored size s).cursorsOk = true := by
  have hip := (toNat_w32_le (s.int.ip.toNat + 4)).trans h
  rcases bsizeState_cases stored size s with hf | ⟨hfit, ⟨hb, he⟩ | ⟨hb, he⟩⟩
  · exact hf.cursorsOk
  · rw [hb] at hfit
    have : (w32 (s.int.ip.toNat + 4)).toNat + size.toNat + 4 ≤ s.opr.inLen.toNat := by
      simp only [Bool.toNat_true] at hfit
      omega
    rw [he]
    simpa only [State.cursorsOk, Bool.and_eq_true, decide_eq_true_eq] using ⟨this, hb⟩
  · refine he ▸ startPayload_cursorsOk ?_
    show (w32 (s.int.ip.toNat + 4)).toNat + size.toNat + 4 * s.int.bck.toNat ≤ s.opr.inLen.toNat
    omega

theorem closeFrame_cursorsOk (s : State) : (closeFrame s).cursorsOk = true := by
  rcases closeFrame_cases s with hf | he
  · exact hf.cursorsOk
  · exact he ▸ cursorsOk_of_idle rfl

theorem terminalState_cursorsOk
    (h : s.int.exactMode = false → s.int.ip.toNat + 4 * s.int.bck.toNat ≤ s.opr.inLen.toNat) :
    (terminalState s).cursorsOk = true := by
  rcases terminalState_cases s with ⟨-, hf | he⟩ | ⟨hm, he⟩
  · exact hf.cursorsOk
  · exact he ▸ cursorsOk_of_idle rfl
  · exact he ▸ closeBlock_cursorsOk (h hm)

/-- The clause of the cursors in a token stream. -/
theorem cursorsOk_tokens_iff (hp : s.int.point = .tokens) : s.cursorsOk = true ↔ s.int.ip.toNat ≤ s.int.inEnd.toNat
    ∧ s.int.inEnd.toNat + (if s.int.exactMode then 0 else 4 * s.int.bck.toNat) ≤ s.opr.inLen.toNat := by
  simp only [State.cursorsOk, hp, Bool.and_eq_true, decide_eq_true_eq]

theorem seqDone_ip_le (lit : List Byte) (off : BitVec 16) (mlen : Nat) (s : State) :
    (seqDone lit off mlen s).int.ip.toNat ≤ s.int.ip.toNat + (Instr.seq lit off mlen).size := by
  have h1 := toNat_w32_le (s.int.ip.toNat + (1 + extLen lit.length))
  have h2 := toNat_w32_le ((w32 (s.int.ip.toNat + (1 + extLen lit.length))).toNat + lit.length)
  have h3 := toNat_w32_le ((w32 ((w32 (s.int.ip.toNat + (1 + extLen lit.length))).toNat + lit.length)).toNat + 2)
  refine (toNat_w32_le _).trans ?_
  simp only [Instr.size]
  show (w32 ((w32 ((w32 (s.int.ip.toNat + (1 + extLen lit.length))).toNat + lit.length)).toNat + 2)).toNat
    + extLen (mlen - Config.minMatch) ≤ _
  omega

theorem elementState_token_cursorsOk {i : Instr} (hi : i.site = .token) (h : s.cursorsOk = true)
    (hp : s.int.point = .tokens) (hfit : s.int.ip.toNat + i.size ≤ s.int.inEnd.toNat) :
    (elementState i s).cursorsOk = true := by
  obtain ⟨-, hend⟩ := (cursorsOk_tokens_iff hp).1 h
  cases i with
  | seq lit off mlen =>
    rcases seqState_cases lit off mlen s with hf | he
    · exact hf.cursorsOk
    · have hip : (seqDone lit off mlen s).int.ip.toNat ≤ s.int.inEnd.toNat := (seqDone_ip_le ..).trans hfit
      rw [elementState, he]
      exact (cursorsOk_tokens_iff (s := seqDone lit off mlen s) hp).2 ⟨hip, hend⟩
  | last lit mc =>
    rcases lastState_cases lit mc s with hf | he
    · exact hf.cursorsOk
    · rw [elementState, he]
      refine terminalState_cursorsOk fun hm => ?_
      have hm' : s.int.exactMode = false := hm
      have h1 := toNat_w32_le (s.int.ip.toNat + (1 + extLen lit.length))
      have h2 := toNat_w32_le ((w32 (s.int.ip.toNat + (1 + extLen lit.length))).toNat + lit.length)
      simp only [Instr.size] at hfit
      simp only [hm', Bool.false_eq_true, if_false] at hend
      show (w32 ((w32 (s.int.ip.toNat + (1 + extLen lit.length))).toNat + lit.length)).toNat
        + 4 * s.int.bck.toNat ≤ s.opr.inLen.toNat
      omega
  | _ => cases hi

end Cursors

end Sys2Proof.Machine
end

section
namespace Sys2Proof.Machine

section Cursors
variable {s : State}

/-- An element that the engine reads, the bytes it needs being there, keeps the cursors. -/
theorem elementState_cursorsOk {i : Instr} (h : s.cursorsOk = true) (hs : s.int.point.site = some i.site)
    (hd : decode i.site (s.fetchBytes i.site) = .ok i) : (elementState i s).cursorsOk = true := by
  have hne := decode_ne_nil hd
  have need : i.site ≠ .token → s.int.fetchAt i.site + siteNeed i.site ≤ s.opr.inLen.toNat :=
    fun hi => fetchBytes_ne_nil hi hne
  cases hp : s.int.point <;> rw [hp] at hs <;> simp only [Point.site, Option.some.injEq, reduceCtorEq] at hs
  case tokens =>
    rw [← hs] at hd
    exact elementState_token_cursorsOk hs.symm h hp (token_fits hd)
  all_goals
    rw [← hs] at need
    replace need := need nofun
    simp only [Internal.fetchAt, siteNeed] at need
    simp only [State.cursorsOk, hp, Bool.and_eq_true, decide_eq_true_eq] at h
    cases i <;> cases hs
  case magic => exact decide_eq_true ((toNat_w32_le _).trans need)
  case flg => exact flgState_cursorsOk _ need
  case bd => exact bdState_cursorsOk _ s
  case hc => exact hcState_cursorsOk _ h
  case csize => exact afterCsize_cursorsOk h
  case dictid => exact openBlocks_cursorsOk h
  case block.bsize => exact bsizeState_cursorsOk _ _ need
  case block.endmark =>
    rcases endmarkState_cases s with he | he <;> rw [elementState, he]
    · exact decide_eq_true ((toNat_w32_le _).trans need)
    · exact closeFrame_cursorsOk _
  case bck k =>
    rcases bckState_cases k s with hf | he
    · exact hf.cursorsOk
    · rw [elementState, he]
      refine startPayload_cursorsOk ?_
      rw [h.2]
      exact h.1
  case cck k =>
    rcases cckState_cases k s with hf | he
    · exact hf.cursorsOk
    · rw [elementState, he]
      exact closeFrame_cursorsOk _

theorem readElement_cursorsOk {site : Site} (h : s.cursorsOk = true) (hs : s.int.point.site = some site) :
    (readElement site s).cursorsOk = true := by
  rcases readElement_cases (Point.site_ne_cmd hs) s with ⟨i, hd, rfl, he⟩ | ⟨rfl, hne, b, he⟩ | ⟨rfl, -, b, he⟩ | hf
  · exact he ▸ elementState_cursorsOk h hs hd
  · exact he ▸ flgState_cursorsOk b (fetchBytes_ne_nil (site := .flg) nofun hne)
  · exact he ▸ bdState_cursorsOk b s
  · exact hf.cursorsOk

/-! ### The encoder keeps the cursors -/

/-- The clause of the cursors in a region. -/
theorem cursorsOk_scan_iff (hp : s.int.point = .scan) : s.cursorsOk = true ↔
    s.int.pos.toNat ≤ s.int.blkHi.toNat ∧ s.int.mlimit.toNat ≤ s.int.blkHi.toNat
      ∧ s.int.blkHi.toNat ≤ s.opr.inLen.toNat := by
  simp only [State.cursorsOk, hp, Bool.and_eq_true, decide_eq_true_eq, and_assoc]

theorem openRegion_cursorsOk {lo hi : Nat} (winLo ob : Nat) (hlo : lo ≤ hi) (hhi : hi ≤ s.opr.inLen.toNat) :
    (s.openRegion lo hi winLo ob).cursorsOk = true := by
  have hn := s.opr.inLen.isLt
  have hhi' : (w32 hi).toNat = hi := toNat_w32 (by omega)
  refine (cursorsOk_scan_iff (s := s.openRegion lo hi winLo ob) rfl).2 ?_
  show (w32 lo).toNat ≤ (w32 hi).toNat ∧ (w32 (hi - Config.lastLiterals)).toNat ≤ (w32 hi).toNat
    ∧ (w32 hi).toNat ≤ s.opr.inLen.toNat
  rw [hhi']
  exact ⟨(toNat_w32_le _).trans hlo, (toNat_w32_le _).trans (Nat.sub_le ..), hhi⟩

theorem extend_le (s : State) (c p k : Nat) : s.extend c p k ≤ k := by
  induction k generalizing c p with
  | zero => exact Nat.le_refl 0
  | succ k ih =>
    rw [State.extend]
    split_ifs
    · exact Nat.succ_le_succ (ih ..)
    · exact Nat.zero_le _

theorem extendBack_le (s : State) (anchor winLo k p c : Nat) : s.extendBack anchor winLo k p c ≤ k := by
  induction k generalizing p c with
  | zero => exact Nat.le_refl 0
  | succ k ih =>
    rw [State.extendBack]
    split_ifs
    · exact Nat.succ_le_succ (ih ..)
    · exact Nat.zero_le _

/-- A match that a lookup returns ends at the limit at the latest, or else is of the shortest length (R104). -/
theorem mfLookup_end_le {p winLo limit off len hi : Nat} (h : s.mfLookup p winLo limit = some (off, len))
    (hlimit : limit ≤ hi) (hp : p + 4 ≤ hi) : p + len ≤ hi := by
  unfold State.mfLookup at h
  split at h
  · cases h
  · dsimp only at h
    split_ifs at h
    cases h
    rename_i cand _ _
    have := extend_le s (cand.toNat + 4) (p + 4) (limit - (p + 4))
    rw [Config.minMatch]
    omega

/-- Extending a match backward leaves its end where it is (R107). -/
theorem mfExtendBack_end (s : State) (p off len anchor winLo : Nat) :
    (s.mfExtendBack p off len anchor winLo).1 + (s.mfExtendBack p off len anchor winLo).2 = p + len := by
  unfold State.mfExtendBack
  split_ifs
  · have := extendBack_le s anchor winLo p p (p - off)
    dsimp only
    omega
  · rfl

theorem scanOne_cursorsOk (hcfg : s.cfg.wf = true) (h : s.cursorsOk = true) (hp : s.int.point = .scan)
    (hroom : s.int.pos.toNat + s.cfg.mfLimit ≤ s.int.blkHi.toNat) : (scanOne s).cursorsOk = true := by
  obtain ⟨hpos, hml, hhi⟩ := (cursorsOk_scan_iff hp).1 h
  have hmf : 9 ≤ s.cfg.mfLimit := by
    simp only [Params.wf, Bool.and_eq_true, decide_eq_true_eq] at hcfg
    obtain ⟨⟨⟨⟨-, -⟩, hmf⟩, -⟩, -⟩ := hcfg
    exact hmf
  rcases scanOne_cases s with ⟨-, he⟩ | ⟨off, len, hm, he⟩ <;> rw [he]
  · refine (cursorsOk_scan_iff (s := State.atPos _ _) hp).2 ⟨?_, hml, hhi⟩
    exact (toNat_w32_le _).trans (show s.int.pos.toNat + 1 ≤ s.int.blkHi.toNat by omega)
  · obtain ⟨u, hu, hem⟩ := emitMatch_cases off len (s.mfFind s.int.pos.toNat s.int.winLo.toNat s.int.mlimit.toNat).2
    have hopr : u.opr = s.opr := hu.tame.1
    have hend := mfLookup_end_le (s := s) hm hml (by omega)
    rw [hem, mfExtendBack_end]
    refine (cursorsOk_scan_iff (s := u.pastMatch _) ?_).2 ?_
    · show u.int.point = .scan
      rw [hu.int]
      exact hp
    · show (w32 (s.int.pos.toNat + len)).toNat ≤ u.int.blkHi.toNat ∧ u.int.mlimit.toNat ≤ u.int.blkHi.toNat
        ∧ u.int.blkHi.toNat ≤ u.opr.inLen.toNat
      rw [hu.int, hopr]
      exact ⟨(toNat_w32_le _).trans hend, hml, hhi⟩

theorem endFrameBlock_cursorsOk (h : s.int.blkHi.toNat ≤ s.opr.inLen.toNat) : (endFrameBlock s).cursorsOk = true := by
  obtain ⟨u, hu, he⟩ := endFrameBlock_cases s
  have hopr : u.opr = s.opr := hu.tame.1
  rw [he]
  refine decide_eq_true ?_
  show u.int.blkHi.toNat ≤ u.opr.inLen.toNat
  rw [hu.int, hopr]
  exact h

theorem endCblock_point (s : State) : (endCblock s).int.point = .idle := by
  simp only [endCblock]
  split_ifs <;> rfl

theorem scanState_cursorsOk (hcfg : s.cfg.wf = true) (h : s.cursorsOk = true) (hp : s.int.point = .scan) :
    (scanState s).cursorsOk = true := by
  obtain ⟨-, -, hhi⟩ := (cursorsOk_scan_iff hp).1 h
  unfold scanState
  split_ifs with hroom
  · exact scanOne_cursorsOk hcfg h hp hroom
  · exact endFrameBlock_cursorsOk hhi
  · exact cursorsOk_of_idle (endCblock_point _)

theorem nextBlock_cursorsOk (s : State) : (nextBlock s).cursorsOk = true := by
  simp only [nextBlock]
  split_ifs with hlo
  · exact openRegion_cursorsOk (s := s.mfClear) _ _ (by omega) (Nat.min_le_left ..)
  · exact openRegion_cursorsOk _ _ (by omega) (Nat.min_le_left ..)
  · rfl

theorem writeHeader_cursorsOk (h : s.int.pos.toNat ≤ s.opr.inLen.toNat) : (writeHeader s).cursorsOk = true :=
  decide_eq_true h

theorem enter_cursorsOk (c : Cmd) (s : State) : (enter c s).cursorsOk = true := by
  cases c with
  | cbound => exact cursorsOk_of_idle rfl
  | mfclr => exact cursorsOk_of_idle rfl
  | dframe => exact decide_eq_true (show (0#32).toNat ≤ s.opr.inLen.toNat from Nat.zero_le _)
  | cblock =>
    simp only [enter, enterCblock]
    split_ifs
    · exact cursorsOk_of_idle rfl
    · exact openRegion_cursorsOk (s := s.mfClear) 0 0 (Nat.zero_le _) (Nat.le_refl _)
  | dblock =>
    simp only [enter, enterDblock]
    split_ifs
    · exact cursorsOk_of_idle rfl
    · exact (cursorsOk_tokens_iff rfl).2 ⟨Nat.zero_le _, Nat.le_refl _⟩
  | cframe =>
    simp only [enter, enterCframe]
    split_ifs
    · exact cursorsOk_of_idle rfl
    · exact writeHeader_cursorsOk (Nat.zero_le _)
  | mffind =>
    simp only [enter, enterMffind]
    split_ifs <;> exact cursorsOk_of_idle rfl
  | mfins =>
    simp only [enter, enterMfins]
    split_ifs <;> exact cursorsOk_of_idle rfl

/-- Every step of the engine keeps the cursors. -/
theorem engineStep_cursorsOk (hcfg : s.cfg.wf = true) (h : s.cursorsOk = true) : (engineStep s).cursorsOk = true := by
  rcases engineStep_cases s with ⟨site, hsite, he⟩ | ⟨-, he⟩ | ⟨k, -, he⟩ | ⟨hp, he⟩ | ⟨-, he⟩ | ⟨-, he⟩ <;> rw [he]
  · exact readElement_cursorsOk h hsite
  · exact h
  · exact enter_cursorsOk k s
  · exact scanState_cursorsOk hcfg h hp
  · exact nextBlock_cursorsOk s
  · obtain ⟨u, -, ht⟩ := writeTrailer_cases s
    exact ht ▸ cursorsOk_of_idle rfl

theorem runEngine_cursorsOk (k : Nat) (hcfg : s.cfg.wf = true) (h : s.cursorsOk = true) :
    (runEngine k s).cursorsOk = true := by
  refine (runEngine_induct (p := fun u => u.cfg.wf = true ∧ u.cursorsOk = true) (fun u _ hu => ?_) k ⟨hcfg, h⟩).2
  have hgiven : (engineStep u).cfg = u.cfg := congrArg Given.cfg (engineStep_given u)
  exact ⟨hgiven ▸ hu.1, engineStep_cursorsOk hu.1 hu.2⟩

end Cursors

end Sys2Proof.Machine
end

section
namespace Sys2Proof.Machine

/-! ### What a step of the machine can do -/

/-- What a step of the machine can do: steps of the engine, a command started or abandoned, a reserved opcode failed, or an
action of the host on registers and buffers. -/
inductive Progress (s : State) : State → Prop
  | tick : Progress s (engineStep s)
  | run (k : Nat) : Progress s (runEngine k s)
  | start (c : Cmd) (k : Nat) (hb : s.busy = false) : Progress s (runEngine k (s.startCmd c))
  | abandon : Progress s s.abandon
  | reserved (b : Byte) : Progress s (s.illegalOpcode b)
  | operand (v : Word) (r : Nat) (hb : s.busy = false) : Progress s (s.writeOperand v r)
  | read (v : Word) (bs : List Byte) (n : Nat) : Progress s { s with rdData := v, rdBytes := bs, fresh := n }
  | wrIn (i : Nat) (bs : List Byte) (hb : s.busy = false) : Progress s (s.inWrite i bs)
  | wrOut (i : Nat) (bs : List Byte) (hb : s.busy = false) : Progress s (s.outWrite i bs)
  | reset : Progress s s.hardReset

variable {s t : State}

theorem progress_self (s : State) : Progress s s := .run 0

/-- A command of the opcode map (R60). -/
theorem exec_progress {i : Instr} (hi : i.site = .cmd) (h : exec i s = .next t) : Progress s t := by
  rcases exec_cases i s with ⟨c, -, h'⟩ | ⟨-, h'⟩ | ⟨hne, -⟩
  · rw [h'] at h
    cases h
    unfold runCommand
    split_ifs with hb
    · exact progress_self s
    · exact .start c _ (by simpa using hb)
  · rw [h'] at h
    cases h
    exact .abandon
  · exact absurd hi hne

theorem reservedWrite_progress (b : Byte) (s : State) : Progress s (reservedWrite b s) := by
  unfold reservedWrite
  split_ifs
  · exact progress_self s
  · exact .reserved b

theorem writeCmd_progress {v : Word} (h : writeCmd v s = .next t) : Progress s t := by
  unfold writeCmd at h
  split at h
  · next hd => exact exec_progress (decode_site hd) h
  · cases h
    exact reservedWrite_progress ..

theorem startCmdWrite_progress {v : Word} (h : startCmdWrite v s = .next t) : Progress s t := by
  unfold startCmdWrite at h
  split at h
  · next hd =>
    split at h
    · next c _ =>
      cases h
      split_ifs with hb
      · exact progress_self s
      · exact .start c 0 (by simpa using hb)
    · exact exec_progress (decode_site hd) h
  · cases h
    exact reservedWrite_progress ..

/-- A buffer access that is made is made while not Busy (R27). -/
theorem bufferAccess_next {sp : Space} {i n : Nat} {u : State} (h : bufferAccess sp i n s u = .next t) :
    s.busy = false ∧ t = u := by
  unfold bufferAccess at h
  split_ifs at h with hb
  cases h
  exact ⟨by simpa using hb, rfl⟩

theorem hostAct_progress {a : HostAct} (h : hostAct a s = .next t) : Progress s t := by
  cases a with
  | wr r v =>
    simp only [hostAct, writeReg] at h
    split_ifs at h with hr hb
    · exact writeCmd_progress h
    · cases h
      exact progress_self s
    · cases h
      exact .operand v r (by simpa using hb)
  | start v => exact startCmdWrite_progress h
  | tick => cases h; exact .tick
  | wait => cases h; exact .run _
  | rd r =>
    cases h
    unfold readRegister
    split_ifs
    · exact .read _ s.rdBytes _
    · exact .read _ s.rdBytes s.fresh
  | wrIn i bs =>
    obtain ⟨hb, rfl⟩ := bufferAccess_next h
    exact .wrIn i bs hb
  | wrOut i bs =>
    obtain ⟨hb, rfl⟩ := bufferAccess_next h
    exact .wrOut i bs hb
  | rdIn i n =>
    obtain ⟨-, rfl⟩ := bufferAccess_next h
    exact .read s.rdData _ s.fresh
  | rdOut i n =>
    obtain ⟨-, rfl⟩ := bufferAccess_next h
    exact .read s.rdData _ s.fresh
  | reset => cases h; exact .reset

/-- A step is the engine's or, with a host action pending, that action's after it is taken off the queue. -/
theorem step_progress (h : step s = .next t) : ∃ rest, Progress { s with host := rest } t := by
  rw [step_eq_machineStep, machineStep] at h
  split at h
  · next a rest _ => exact ⟨rest, hostAct_progress h⟩
  · refine ⟨s.host, ?_⟩
    split_ifs at h
    · rw [runStep_eq] at h
      cases h
      exact .tick
    · cases h
      exact progress_self s

/-! ### What every step keeps -/

theorem writeOperand_cfg (v : Word) (r : Nat) (s : State) : (s.writeOperand v r).cfg = s.cfg := by
  unfold State.writeOperand
  split <;> rfl

theorem writeOperand_inv (v : Word) (r : Nat) (s : State) : (s.writeOperand v r).inv = s.inv := by
  unfold State.writeOperand
  split <;> rfl

theorem writeOperand_int (v : Word) (r : Nat) (s : State) : (s.writeOperand v r).int = s.int := by
  unfold State.writeOperand
  split <;> rfl

theorem runEngine_cfg (k : Nat) (s : State) : (runEngine k s).cfg = s.cfg := congrArg Given.cfg (runEngine_given k s)

theorem Progress.cfg (h : Progress s t) : t.cfg = s.cfg := by
  cases h with
  | tick => exact congrArg Given.cfg (engineStep_given s)
  | run k => exact runEngine_cfg k s
  | start c k => exact runEngine_cfg k (s.startCmd c)
  | abandon => exact congrArg Given.cfg (abandon_given s)
  | operand v r => exact writeOperand_cfg v r s
  | _ => rfl

/-- The clauses of the invariant. -/
theorem State.inv_iff (s : State) : s.inv = true ↔
    s.cfg.wf = true ∧ s.dataOk = true ∧ Controlled s.status.lastCmd s := by
  have control : Controlled s.status.lastCmd s ↔ s.statusOk = true ∧ s.pointOk = true :=
    ⟨fun h => ⟨h.status, h.point⟩, fun ⟨hs, hp⟩ => ⟨hs, hp, rfl⟩⟩
  simp only [State.inv, Bool.and_eq_true, control, and_assoc]

theorem Controlled.inv {c : Byte} (h : Controlled c t) (hcfg : t.cfg.wf = true) (hdata : t.dataOk = true) :
    t.inv = true := by
  obtain rfl := h.cmd
  exact t.inv_iff.2 ⟨hcfg, hdata, h⟩

/-- The engine stands at no point of a command while not Busy. -/
theorem point_of_inv (h : s.inv = true) (hb : s.busy = false) : s.int.point = .idle := by
  obtain ⟨-, -, hc⟩ := s.inv_iff.1 h
  rcases s.pointOk_iff.1 hc.point with ⟨hp, -⟩ | ⟨hb', -⟩
  · exact hp
  · rw [hb] at hb'
    cases hb'

theorem dataOk_inWrite (i : Nat) (bs : List Byte) (h : s.dataOk = true) : (s.inWrite i bs).dataOk = true := by
  obtain ⟨hin, hrest⟩ := s.dataOk_iff.1 h
  exact (State.dataOk_iff _).2 ⟨Memory.writeBytes_wf _ i bs hin, hrest⟩

theorem dataOk_hardReset (s : State) : s.hardReset.dataOk = true :=
  (State.dataOk_iff _).2 ⟨rfl, rfl, rfl, fun _ he => absurd he List.not_mem_nil, Internal.released_h_lt ..⟩

theorem Progress.inv (h : Progress s t) (hinv : s.inv = true) : t.inv = true := by
  have hcfg : t.cfg.wf = true := by
    rw [h.cfg]
    exact (s.inv_iff.1 hinv).1
  obtain ⟨-, hdata, hc⟩ := s.inv_iff.1 hinv
  cases h with
  | tick => exact (engineStep_controlled hc).inv hcfg ((engineStep_tame s).2 hdata)
  | run k => exact (runEngine_controlled k hc).inv hcfg ((runEngine_tame k s).2 hdata)
  | start c k =>
    exact (runEngine_controlled k (controlled_startCmd c s)).inv hcfg
      (((tame_startCmd c s).trans (runEngine_tame k _)).2 hdata)
  | abandon => exact (controlled_abandon s).inv hcfg ((tame_abandon s).2 hdata)
  | reserved b => exact (controlled_illegalOpcode b s).inv hcfg ((tame_illegalOpcode b s).2 hdata)
  | operand v r => exact (writeOperand_inv v r s).trans hinv
  | read => exact hinv
  | wrIn i bs => exact Controlled.inv ⟨hc.status, hc.point, rfl⟩ hcfg (dataOk_inWrite i bs hdata)
  | wrOut i bs => exact Controlled.inv ⟨hc.status, hc.point, rfl⟩ hcfg ((tame_outWrite s i bs).2 hdata)
  | reset => exact Controlled.inv ⟨rfl, rfl, rfl⟩ hcfg (dataOk_hardReset s)

theorem abandon_point (s : State) : s.abandon.int.point = .idle := rfl

theorem Progress.cursorsOk (h : Progress s t) (hinv : s.inv = true) (hcur : s.cursorsOk = true) : t.cursorsOk = true := by
  have hcfg : s.cfg.wf = true := (s.inv_iff.1 hinv).1
  cases h with
  | tick => exact engineStep_cursorsOk hcfg hcur
  | run k => exact runEngine_cursorsOk k hcfg hcur
  | start c k => exact runEngine_cursorsOk (s := s.startCmd c) k hcfg rfl
  | abandon => exact cursorsOk_of_idle (abandon_point s)
  | reserved b => exact cursorsOk_of_idle rfl
  | operand v r hb =>
    refine cursorsOk_of_idle ?_
    rw [writeOperand_int]
    exact point_of_inv hinv hb
  | read => exact hcur
  | wrIn i bs hb => exact cursorsOk_of_idle (show s.int.point = .idle from point_of_inv hinv hb)
  | wrOut i bs hb => exact cursorsOk_of_idle (show s.int.point = .idle from point_of_inv hinv hb)
  | reset => exact cursorsOk_of_idle rfl

/-! ### The statements on the invariants -/

/-- Settles O56: the cases of a step, each of which keeps data, parameters and control. -/
theorem stepKeepsInvariant : Obligations.StepKeepsInvariant := by
  intro s t hinv h
  obtain ⟨rest, hp⟩ := step_progress h
  exact hp.inv hinv

/-- Settles O57: the engine's steps keep the cursors, and the host reaches registers and `IN` only while no command
runs. -/
theorem stepKeepsCursorsInInput : Obligations.StepKeepsCursorsInInput := by
  intro s t hinv hcur h
  obtain ⟨rest, hp⟩ := step_progress h
  exact hp.cursorsOk hinv hcur

/-- Settles O55, by evaluation. -/
theorem resetMeetsInvariant : Obligations.ResetMeetsInvariant := ⟨rfl, rfl⟩

end Sys2Proof.Machine
end

section
namespace Sys2Proof.Machine

/-! ### The statements on registers, instructions and steps -/

/-- What no instruction changes. -/
theorem exec_kept {i : Instr} {s t : State} (h : exec i s = .next t) : Kept s t := by
  have hgiven := exec_given h
  have field : ∀ {α : Type} (f : Given → α), f t.toGiven = f s.toGiven := fun f => congrArg f hgiven
  refine ⟨⟨(exec_tame h).1, field Given.cfg⟩, fun a => ?_, field Given.host, field Given.rdData, field Given.rdBytes⟩
  exact field fun g => (g.inb.read a).getD (Config.freeInByte g.inEpoch a)

/-- The commands without the match finder. -/
def Cmd.keepsTable : Cmd → Bool
  | .cbound | .dblock | .dframe => true
  | .cblock | .cframe | .mfclr | .mffind | .mfins => false

theorem Cmd.opcode_inj {c k : Cmd} (h : c.opcode = k.opcode) : c = k := by
  cases c <;> cases k <;> first | rfl | exact absurd h (by decide)

theorem enter_ht {c : Cmd} (h : c.keepsTable = true) (s : State) : (enter c s).ht = s.ht := by
  cases c <;> cases h
  case cbound => rfl
  case dframe => rfl
  case dblock =>
    simp only [enter, enterDblock]
    split_ifs <;> rfl

theorem Cmd.opcode_of_keepsTable {c : Cmd} (h : c.keepsTable = true) : c.opcode ≠ 0x02#8 ∧ c.opcode ≠ 0x04#8 := by
  cases c <;> cases h <;> exact ⟨nofun, nofun⟩

/-- CBOUND, DBLOCK and DFRAME have no point in the encoder or the writer, so none of their steps reaches the table. -/
theorem engineStep_ht {c : Cmd} {s : State} (h : Controlled c.opcode s) (hc : c.keepsTable = true) :
    (engineStep s).ht = s.ht := by
  obtain ⟨hne2, hne4⟩ := Cmd.opcode_of_keepsTable hc
  by_cases hidle : s.int.point = .idle
  · rw [engineStep_of_idle hidle]
  obtain ⟨-, hr⟩ := h.runs hidle
  rcases engineStep_cases s with ⟨site, -, he⟩ | ⟨hp, -⟩ | ⟨k, hp, he⟩ | ⟨hp, -⟩ | ⟨hp, -⟩ | ⟨hp, -⟩
  · exact he ▸ (readElement_tidy site s).2
  · exact absurd hp hidle
  · rw [hp] at hr
    obtain rfl := Cmd.opcode_inj hr
    exact he ▸ enter_ht hc s
  · rw [hp] at hr
    exact absurd hr (not_or.2 ⟨hne2, hne4⟩)
  · rw [hp] at hr
    exact absurd hr hne4
  · rw [hp] at hr
    exact absurd hr hne4

theorem runCommand_ht {c : Cmd} (hc : c.keepsTable = true) (s : State) : (runCommand c s).ht = s.ht := by
  unfold runCommand
  split_ifs
  · rfl
  · refine (runEngine_induct (p := fun u => Controlled c.opcode u ∧ u.ht = s.ht) (fun u _ hu => ?_) _
      ⟨controlled_startCmd c s, rfl⟩).2
    exact ⟨engineStep_controlled hu.1, (engineStep_ht hu.1 hc).trans hu.2⟩

theorem exec_ht {i : Instr} {s t : State} (hi : i ∉ [.mfclr, .mffind, .mfins, .cblock, .cframe, .abort])
    (h : exec i s = .next t) : t.ht = s.ht := by
  rcases exec_cases i s with ⟨c, hc, h'⟩ | ⟨rfl, -⟩ | ⟨-, h'⟩
  · rw [h'] at h
    cases h
    refine runCommand_ht ?_ s
    cases i <;> cases hc <;> first | rfl | exact absurd hi (by decide)
  · exact absurd hi (by decide)
  · rw [h'] at h
    cases h
    exact (elementState_tidy i s).2

/-- Settles O58: the frame of every instruction, and `Progress.cfg` for every step. -/
theorem instructionsKeepOperandsAndInput : Obligations.InstructionsKeepOperandsAndInput := by
  refine ⟨fun i s t h => ⟨exec_kept h, fun hi => exec_ht hi h⟩, fun s t h => ?_⟩
  obtain ⟨rest, hp⟩ := step_progress h
  exact hp.cfg

/-- A busy engine with no host action pending executes the element that stands where it reads. -/
theorem step_of_decode {s : State} {site : Site} {i : Instr} (hhost : s.host = []) (hb : s.busy = true)
    (hsite : s.int.point.site = some site) (hd : decode site (s.fetchBytes site) = .ok i) : step s = exec i s := by
  rw [step_eq_machineStep, machineStep, hhost]
  simp only [hb, if_true, runStep, hsite, hd]

theorem step_of_host {s : State} {a : HostAct} {rest : List HostAct} (h : s.host = a :: rest) :
    step s = hostAct a { s with host := rest } := by
  rw [step_eq_machineStep, machineStep, h]

/-- Settles O53: `step` is `machineStep`, in each of its cases. -/
theorem stepRunsDecodedInstruction : Obligations.StepRunsDecodedInstruction := by
  refine ⟨fun s v rest i h hd => ?_, fun s site i hhost hb hsite hd => step_of_decode hhost hb hsite hd,
    fun s hhost hb => ?_, fun s a rest h => step_of_host h⟩
  · rw [step_of_host h]
    show writeCmd v _ = _
    rw [writeCmd, cmdByte, hd]
  · rw [step_eq_machineStep, machineStep, hhost]
    simp [hb]

/-! #### Encodings in `IN` -/

theorem inBytes_append (s : State) (a m n : Nat) : s.inBytes a (m + n) = s.inBytes a m ++ s.inBytes (a + m) n := by
  rw [State.inBytes, ← List.range'_append_1, List.map_append]
  rfl

/-- The engine reads as many bytes as it needs where it finds them all in the input (R162). -/
theorem fetchBytes_of_present {s : State} {site : Site} (hs : site ≠ .token)
    (h : s.int.fetchAt site + siteNeed site ≤ s.opr.inLen.toNat) :
    s.fetchBytes site = s.inBytes (s.int.fetchAt site) (siteNeed site) := by
  cases site <;> first | exact absurd rfl hs | exact if_neg (Nat.not_lt.2 h)

/-- An element of a frame is no longer than the bytes that the engine reads for it. -/
theorem size_le_siteNeed {i : Instr} (hcmd : i.site ≠ .cmd) (htok : i.site ≠ .token) : i.size ≤ siteNeed i.site := by
  cases i <;> first | exact absurd rfl hcmd | exact absurd rfl htok | simp [Instr.size, Instr.site, siteNeed]

/-- The bytes read at a place where the encoding of an element stands, the input reaching past it, begin with the
encoding. -/
theorem fetchBytes_of_encoding {s : State} {i : Instr} (hcmd : i.site ≠ .cmd)
    (henc : s.inBytes (s.int.fetchAt i.site) i.size = encode i)
    (htok : i.site = .token → s.int.ip.toNat + i.size ≤ s.int.inEnd.toNat)
    (hlast : (∃ lit mc, i = .last lit mc) → s.int.ip.toNat + i.size = s.int.inEnd.toNat)
    (hneed : i.site ≠ .token → s.int.fetchAt i.site + siteNeed i.site ≤ s.opr.inLen.toNat) :
    ∃ rest, s.fetchBytes i.site = encode i ++ rest ∧ ((∃ lit mc, i = .last lit mc) → rest = []) := by
  have split : ∃ n, s.fetchBytes i.site = s.inBytes (s.int.fetchAt i.site) (i.size + n)
      ∧ ((∃ lit mc, i = .last lit mc) → n = 0) := by
    by_cases hs : i.site = .token
    · have hfit := htok hs
      refine ⟨s.int.inEnd.toNat - s.int.ip.toNat - i.size, ?_, fun hl => ?_⟩
      · rw [hs]
        show s.inBytes s.int.ip.toNat (s.int.inEnd.toNat - s.int.ip.toNat) = s.inBytes s.int.ip.toNat _
        congr 1
        omega
      · have := hlast hl
        omega
    · refine ⟨siteNeed i.site - i.size, ?_, fun ⟨lit, mc, he⟩ => absurd (by rw [he]; rfl) hs⟩
      rw [fetchBytes_of_present hs (hneed hs), Nat.add_sub_cancel' (size_le_siteNeed hcmd hs)]
  obtain ⟨n, hbytes, hn⟩ := split
  rw [inBytes_append, henc] at hbytes
  exact ⟨_, hbytes, fun hl => by rw [hn hl]; rfl⟩

/-- Settles O54: decoding the bytes read gives the element back. -/
theorem writtenElementRuns : Obligations.WrittenElementRuns := by
  intro s i hwf hhost hb hsite henc htok hlast hneed
  obtain ⟨rest, hbytes, hrest⟩ := fetchBytes_of_encoding (Point.site_ne_cmd hsite) henc htok hlast hneed
  refine step_of_decode hhost hb hsite ?_
  rw [hbytes]
  exact decode_encode i rest hwf hrest

/-! #### The registers -/

theorem hostAct_rd_of_not_busy {s : State} (r : Nat) (hb : s.busy = false) :
    hostAct (.rd r) s = .next { s with rdData := s.readReg r } := by
  simp [hostAct, readRegister, hb]

theorem readReg_of_gt {r : Nat} (s : State) (h : 21 < r) : s.readReg r = 0#32 := by
  obtain ⟨k, rfl⟩ : ∃ k, r = k + 22 := ⟨r - 22, by omega⟩
  rfl

/-- A host write changes the operand registers only. -/
theorem writeOperand_eq (s : State) (v : Word) (r : Nat) :
    s.writeOperand v r = { s with opr := (s.writeOperand v r).opr } := by
  unfold State.writeOperand
  split <;> rfl

/-- Of the operand registers a host write changes the one it names. -/
theorem writeOperand_values (s : State) (v : Word) (r : Nat) :
    let o := (s.writeOperand v r).opr
    [o.options, o.inLen, o.outCap, o.expLen, o.pos, o.winLo, o.limit]
      = (List.range' 3 7).map fun k => if k = r then v else s.readReg k := by
  by_cases h : 3 ≤ r ∧ r ≤ 9
  · obtain ⟨h3, h9⟩ := h
    interval_cases r <;> rfl
  · have hne : ∀ k, 3 ≤ k → k ≤ 9 → k ≠ r := fun k h3 h9 hk => h (hk ▸ ⟨h3, h9⟩)
    have hsame : s.writeOperand v r = s := by
      unfold State.writeOperand
      split <;> first | rfl | omega
    have hmap : ((List.range' 3 7).map fun k => if k = r then v else s.readReg k) = (List.range' 3 7).map s.readReg := by
      refine List.map_congr_left fun k hk => if_neg ?_
      rw [List.mem_range'_1] at hk
      exact hne k (by omega) (by omega)
    rw [hsame, hmap]
    rfl

/-- Settles O1, register by register. -/
theorem registerAccess : Obligations.RegisterAccess := by
  intro s r v hb
  refine ⟨hostAct_rd_of_not_busy r hb, rfl, ?_, fun hr => ⟨s.writeOperand v r, ?_, writeOperand_eq s v r,
    writeOperand_values s v r⟩⟩
  · rintro (rfl | hr)
    · rfl
    · exact readReg_of_gt s hr
  · simp [hostAct, writeReg, hr, hb]

/-! #### `STATUS` -/

theorem RunState.code_lt (x : RunState) : x.code < 4 := by cases x <;> decide
theorem Fsm.code_lt (x : Fsm) : x.code < 8 := by cases x <;> decide

/-- The word's value: no field runs into the next (R12). -/
theorem Status.toWord_toNat (st : Status) : st.toWord.toNat = st.state.code + 4 * st.stored.toNat + 8 * st.found.toNat
    + 16 * st.fsm.code + 128 * st.fsmAt.code + 65536 * st.lastCmd.toNat := by
  have := st.state.code_lt
  have := st.stored.toNat_le
  have := st.found.toNat_le
  have := st.fsm.code_lt
  have := st.fsmAt.code_lt
  have := st.lastCmd.isLt
  exact toNat_w32 (by omega)

theorem getLsbD_eq_of_bit {w : Word} {i : Nat} {b : Bool} (h : w.toNat / 2 ^ i % 2 = b.toNat) : w.getLsbD i = b := by
  rw [BitVec.getLsbD, Nat.testBit_eq_decide_div_mod_eq, h]
  cases b <;> rfl

/-- Settles O5: the value of the word, divided into its fields. -/
theorem statusWordAndErrorCodes : Obligations.StatusWordAndErrorCodes := by
  refine ⟨fun st => ?_, rfl, rfl, rfl, fun s hb => hostAct_rd_of_not_busy 2 hb⟩
  have hw := st.toWord_toNat
  have := st.state.code_lt
  have := st.stored.toNat_le
  have := st.found.toNat_le
  have := st.fsm.code_lt
  have := st.fsmAt.code_lt
  have := st.lastCmd.isLt
  exact ⟨by omega, getLsbD_eq_of_bit (by omega), getLsbD_eq_of_bit (by omega), by omega, by omega, by omega, by omega,
    by omega⟩

/-! #### While Busy -/

theorem decodeOpcode_abort {b : Byte} (h : decodeOpcode b = .ok .abort) : b = 0x1F#8 := by
  simp only [decodeOpcode] at h
  split_ifs at h <;> first | assumption | cases h

theorem reservedWrite_of_busy {s : State} (b : Byte) (hb : s.busy = true) : reservedWrite b s = s := if_pos hb

/-- While Busy no command but ABORT does anything (R11). -/
theorem exec_of_busy {s : State} {i : Instr} (hi : i.site = .cmd) (hne : i ≠ .abort) (hb : s.busy = true) :
    exec i s = .next s := by
  rcases exec_cases i s with ⟨c, -, h⟩ | ⟨habort, -⟩ | ⟨hs, -⟩
  · rw [h, runCommand, if_pos hb]
  · exact absurd habort hne
  · exact absurd hi hs

/-- The low byte of a `CMD` write that is not ABORT's opcode decodes to no ABORT. -/
theorem decode_cmd_ne_abort {v : Word} {i : Instr} (hv : v.toNat % 256 ≠ 0x1F) (h : decode .cmd [cmdByte v] = .ok i) :
    i ≠ .abort := by
  rintro rfl
  have hbyte : cmdByte v = 0x1F#8 := decodeOpcode_abort h
  have : (cmdByte v).toNat = 0x1F := by rw [hbyte]; rfl
  rw [cmdByte, BitVec.toNat_setWidth] at this
  exact hv this

theorem writeCmd_of_busy {s : State} {v : Word} (hb : s.busy = true) (hv : v.toNat % 256 ≠ 0x1F) :
    writeCmd v s = .next s := by
  unfold writeCmd
  split
  · next hd => exact exec_of_busy (decode_site hd) (decode_cmd_ne_abort hv hd) hb
  · rw [reservedWrite_of_busy _ hb]

theorem startCmdWrite_of_busy {s : State} {v : Word} (hb : s.busy = true) (hv : v.toNat % 256 ≠ 0x1F) :
    startCmdWrite v s = .next s := by
  unfold startCmdWrite
  split
  · next hd =>
    split
    · rw [if_pos hb]
    · exact exec_of_busy (decode_site hd) (decode_cmd_ne_abort hv hd) hb
  · rw [reservedWrite_of_busy _ hb]

theorem bufferAccess_of_busy {s : State} (sp : Space) (i n : Nat) (t : State) (hb : s.busy = true) :
    bufferAccess sp i n s t = .refused (.busyBufferAccess sp) := if_pos hb

/-- Settles O2: what each kind of access does while Busy. -/
theorem busyHostAccess : Obligations.BusyHostAccess := by
  intro s r i n v bs hb
  refine ⟨fun h => ?_, startCmdWrite_of_busy hb, ?_, ?_, fun hr => ?_, ⟨_, rfl, ?_⟩, bufferAccess_of_busy _ _ _ _ hb,
    bufferAccess_of_busy _ _ _ _ hb, bufferAccess_of_busy _ _ _ _ hb⟩
  · by_cases hr : r = 0
    · subst hr
      exact writeCmd_of_busy hb (h.resolve_left (absurd rfl))
    · simp [hostAct, writeReg, hr, hb]
  · simp [hostAct, readRegister, State.readReg]
  · have hstate : s.status.state = .busy := by simpa [State.busy] using hb
    have hw := s.status.toWord_toNat
    rw [hstate] at hw
    simp only [RunState.code] at hw
    omega
  · have hle : ¬ r ≤ 21 := Nat.not_le.2 hr
    simp [hostAct, readRegister, hle, readReg_of_gt s hr]
  · unfold readRegister
    split_ifs <;> rfl

end Sys2Proof.Machine
end

section
namespace Sys2Proof.Machine

/-! ### The statements on the buffers (20_memory.md) -/

/-- A byte of `OUT` after a one-byte write. -/
theorem outByteOf_write (free : Nat → Byte) (m : Memory) (k : Nat) (b : Byte) (a : Nat) :
    outByteOf free (m.write k b) a = if a = k then b else outByteOf free m a := by
  simp only [outByteOf, Memory.read, Memory.write, Table.get_put]
  split_ifs <;> rfl

/-- The first byte of a match copy is the one `off` behind the write position. -/
theorem outByteOf_copyBack_first (free : Nat → Byte) (off n op : Nat) (m : Memory) :
    outByteOf free (copyBack free off (n + 1) op m) op = outByteOf free m (op - off) := by
  have hkeep := copyBack_read_outside free off n (op + 1) (m.write op (outByteOf free m (op - off)))
    (.inl (Nat.lt_succ_self op))
  rw [copyBack, outByteOf, hkeep, ← outByteOf, outByteOf_write, if_pos rfl]

/-- The write that precedes the rest of a match copy prolongs the pattern by one byte: the pattern behind `op + 1` is
the one behind `op` from its second byte on, and the byte at `op` is the pattern's first byte again. -/
theorem outByteOf_write_pattern (free : Nat → Byte) {off op : Nat} (m : Memory) (j : Nat) (hoff : 1 ≤ off)
    (hop : off ≤ op) :
    outByteOf free (m.write op (outByteOf free m (op - off))) (op + 1 - off + j % off)
      = outByteOf free m (op - off + (j + 1) % off) := by
  have hlt : j % off < off := Nat.mod_lt _ hoff
  have hnext : (j + 1) % off = (j % off + 1) % off := (Nat.mod_add_mod j off 1).symm
  rw [outByteOf_write, hnext]
  by_cases hlast : j % off + 1 = off
  · rw [if_pos (by omega), hlast, Nat.mod_self, Nat.add_zero]
  · have hsame : op + 1 - off + j % off = op - off + (j % off + 1) := by omega
    rw [if_neg (by omega), Nat.mod_eq_of_lt (Nat.lt_of_le_of_ne hlt hlast), hsame]

/-- R47: the bytes that a match copy writes, by induction on their number. -/
theorem outByteOf_copyBack (free : Nat → Byte) {off n op : Nat} (m : Memory) {i : Nat} (hoff : 1 ≤ off)
    (hop : off ≤ op) (hi : i < n) :
    outByteOf free (copyBack free off n op m) (op + i) = outByteOf free m (op - off + i % off) := by
  induction n generalizing op m i with
  | zero => exact absurd hi (Nat.not_lt_zero i)
  | succ n ih =>
    cases i with
    | zero => simpa using outByteOf_copyBack_first free off n op m
    | succ j =>
      have hrest := ih (m.write op (outByteOf free m (op - off))) (Nat.le_succ_of_le hop) (Nat.lt_of_succ_lt_succ hi)
      have hindex : op + (j + 1) = op + 1 + j := by omega
      rw [copyBack, hindex, hrest, outByteOf_write_pattern free m j hoff hop]

/-- Settles O14: the bytes written are the pattern's, and no byte outside them changes. -/
theorem matchCopyRepeatsPattern : Obligations.MatchCopyRepeatsPattern :=
  fun free off n op m hoff hop =>
    ⟨fun _ hi => outByteOf_copyBack free m hoff hop hi, fun _ ha => copyBack_read_outside free off n op m ha⟩

theorem bufferAccess_of_idle {s : State} (sp : Space) {i n : Nat} (t : State) (hb : s.busy = false)
    (hin : i + n ≤ 2 ^ 32) : bufferAccess sp i n s t = .next t := by
  rw [bufferAccess, hb, if_neg Bool.false_ne_true, if_neg (Nat.not_lt.2 hin)]

/-- Reading `bs.length` consecutive bytes through `f` gives `bs` when `f` gives each byte of `bs` at its index. -/
theorem map_range'_eq {f : Nat → Byte} {a : Nat} {bs : List Byte}
    (h : ∀ k (hk : k < bs.length), f (a + k) = bs[k]) : (List.range' a bs.length).map f = bs := by
  refine List.ext_getElem (by simp) fun k _ hk => ?_
  simpa using h k hk

/-- Bytes written to `IN` read back. -/
theorem State.inBytes_inWrite (s : State) (a : Nat) (bs : List Byte) : (s.inWrite a bs).inBytes a bs.length = bs :=
  map_range'_eq fun k hk => by simp [State.inByte_inWrite, hk]

/-- Bytes written to `OUT` read back. -/
theorem State.outBytes_outWrite (s : State) (a : Nat) (bs : List Byte) :
    (s.outWrite a bs).outBytes a bs.length = bs :=
  map_range'_eq fun k hk => by simp [State.outByte_outWrite, hk]

theorem Memory.read_writeBytes_outside (m : Memory) {a : Nat} {bs : List Byte} {i : Nat}
    (h : i < a ∨ a + bs.length ≤ i) : (m.writeBytes a bs).read i = m.read i := by
  rw [Memory.read_writeBytes, if_neg (by omega)]

/-- Settles O3: while not Busy each access to a buffer is made, and a write reads back. -/
theorem hostBufferAccess : Obligations.HostBufferAccess := by
  intro s i n bs hb
  refine ⟨fun hin => ⟨⟨s.inWrite i bs, ?_, rfl, ?_, fun a ha => ?_⟩, ⟨s.outWrite i bs, ?_, rfl, ?_, fun a ha => ?_⟩⟩,
    fun hin => ⟨?_, ?_⟩⟩
  · exact bufferAccess_of_idle _ _ hb hin
  · exact s.inBytes_inWrite i bs
  · exact s.inb.read_writeBytes_outside ha
  · exact bufferAccess_of_idle _ _ hb hin
  · exact s.outBytes_outWrite i bs
  · exact s.outb.read_writeBytes_outside ha
  · exact bufferAccess_of_idle _ _ hb hin
  · exact bufferAccess_of_idle _ _ hb hin

end Sys2Proof.Machine
end

section
namespace Sys2Proof

/-! ### Elements of one byte -/

/-- R62: a byte that the opcode map does not list is rejected. -/
theorem decodeOpcode_of_reserved {b : Byte} (h : b.toNat ∉ [0x01, 0x02, 0x03, 0x04, 0x05, 0x10, 0x11, 0x12, 0x1F]) :
    decodeOpcode b = .error (.reservedOpcode b) := by
  simp only [List.mem_cons, List.not_mem_nil, or_false, not_or] at h
  simp [decodeOpcode, BitVec.toNat_eq, h]

theorem encode_of_decodeOpcode {b : Byte} {i : Instr} (h : decodeOpcode b = .ok i) : encode i = [b] := by
  simp only [decodeOpcode] at h
  split_ifs at h <;> cases h <;> subst b <;> rfl

/-- What an FLG byte decodes to, its version being 01 (R75). -/
theorem decodeFlg_ok {b : Byte} {i : Instr} (h : decodeFlg b = .ok i) : b.toNat / 64 = 1
    ∧ .flg (b.getLsbD 5) (b.getLsbD 4) (b.getLsbD 3) (b.getLsbD 2) (b.getLsbD 1) (b.getLsbD 0) = i := by
  unfold decodeFlg at h
  split_ifs at h with hv
  cases h
  exact ⟨hv, rfl⟩

/-- What a BD byte decodes to, its reserved bits being 0 (R76). -/
theorem decodeBd_ok {b : Byte} {i : Instr} (h : decodeBd b = .ok i) :
    b.toNat / 128 = 0 ∧ b.toNat % 16 = 0 ∧ .bd (BitVec.ofNat 3 (b.toNat / 16)) = i := by
  unfold decodeBd at h
  split_ifs at h with hres
  cases h
  have hlt := b.isLt
  have hbit : ¬ b.toNat / 2 ^ 7 % 2 = 1 := by simpa [BitVec.getLsbD, Nat.testBit_eq_decide_div_mod_eq] using hres.1
  exact ⟨by omega, hres.2, rfl⟩

/-- An FLG byte of version 01 is its six flags (R75). -/
theorem flgByte_of_bits (b : Byte) (hv : b.toNat / 64 = 1) :
    flgByte (b.getLsbD 5) (b.getLsbD 4) (b.getLsbD 3) (b.getLsbD 2) (b.getLsbD 1) (b.getLsbD 0) = b := by
  revert b
  decide

theorem toNat_bdCode {b : Byte} (h : b.toNat / 128 = 0) : (BitVec.ofNat 3 (b.toNat / 16)).toNat = b.toNat / 16 := by
  rw [BitVec.toNat_ofNat]
  omega

theorem encode_of_decodeFlg {b : Byte} {i : Instr} (h : decodeFlg b = .ok i) : encode i = [b] := by
  obtain ⟨hv, rfl⟩ := decodeFlg_ok h
  rw [encode, flgByte_of_bits b hv]

theorem encode_of_decodeBd {b : Byte} {i : Instr} (h : decodeBd b = .ok i) : encode i = [b] := by
  obtain ⟨h7, hlow, rfl⟩ := decodeBd_ok h
  have hb : BitVec.ofNat 8 (16 * (b.toNat / 16)) = b := by
    apply BitVec.eq_of_toNat_eq
    have := b.isLt
    rw [BitVec.toNat_ofNat]
    omega
  rw [encode, bdByte, toNat_bdCode h7, hb]

/-! ### Elements that are one little-endian field -/

/-- A field that decodes to an element is the bytes of a number that fits it (R44). -/
theorem takeLe_map_ok {k : Nat} {bs : List Byte} {f : Nat → Instr} {i : Instr} (h : (takeLe k bs).map f = .ok i) :
    ∃ n, n < 256 ^ k ∧ leBytes k n = bs.take k ∧ f n = i := by
  unfold takeLe at h
  split_ifs at h with hk
  · cases h
  · cases h
    have hlen : (bs.take k).length = k := List.length_take_of_le (Nat.le_of_not_lt hk)
    have hlt := leNat_lt (bs.take k)
    have hbytes := leBytes_leNat (bs.take k)
    rw [hlen] at hlt hbytes
    exact ⟨_, hlt, hbytes, rfl⟩

theorem encode_decodeBlockWord {w : Nat} (h : w < 2 ^ 32) : encode (decodeBlockWord w) = leBytes 4 w := by
  unfold decodeBlockWord
  split_ifs with h0
  · rw [h0, encode]
  · have hw : blockWord (decide (2 ^ 31 ≤ w)) (BitVec.ofNat 31 w).toNat = w := by
      rw [blockWord, BitVec.toNat_ofNat]
      by_cases hs : 2 ^ 31 ≤ w
      · rw [decide_eq_true hs, Bool.toNat_true]
        omega
      · rw [decide_eq_false hs, Bool.toNat_false]
        omega
    rw [encode, hw]

/-! ### Every word has one meaning -/

/-- Bytes that decode to an instruction begin with its encoding (R64 to R87). -/
theorem encode_prefix_of_decode {site : Site} {bs : List Byte} {i : Instr} (h : decode site bs = .ok i) :
    encode i <+: bs := by
  have first : ∀ {b : Byte} {rest : List Byte}, encode i = [b] → encode i <+: b :: rest :=
    fun he => ⟨_, by rw [he]; rfl⟩
  have field : ∀ {k : Nat}, encode i = bs.take k → encode i <+: bs := fun he => he ▸ List.take_prefix ..
  cases site
  case cmd => cases bs with
    | nil => cases h
    | cons b bs => exact first (encode_of_decodeOpcode h)
  case token =>
    obtain ⟨rest, rfl, -⟩ := decodeToken_bytes h
    exact List.prefix_append ..
  case magic =>
    simp only [decode] at h
    split_ifs at h with hlen hmagic
    cases h
    exact field hmagic.symm
  case flg => cases bs with
    | nil => cases h
    | cons b bs => exact first (encode_of_decodeFlg h)
  case bd => cases bs with
    | nil => cases h
    | cons b bs => exact first (encode_of_decodeBd h)
  case hc => cases bs with
    | nil => cases h
    | cons b bs =>
      cases h
      exact first rfl
  case csize =>
    obtain ⟨n, hn, hbytes, rfl⟩ := takeLe_map_ok h
    have hval : (BitVec.ofNat 64 n).toNat = n := Nat.mod_eq_of_lt hn
    exact field (by rw [encode, hval, hbytes])
  case block =>
    obtain ⟨n, hn, hbytes, rfl⟩ := takeLe_map_ok h
    exact field ((encode_decodeBlockWord hn).trans hbytes)
  all_goals
    obtain ⟨n, hn, hbytes, rfl⟩ := takeLe_map_ok h
    exact field (by rw [encode, Machine.toNat_w32 hn, hbytes])

/-- A terminal sequence takes all the bytes that it is decoded from (R71). -/
theorem encode_of_decode_last {site : Site} {bs : List Byte} {i : Instr} (h : decode site bs = .ok i)
    (hl : ∃ lit mc, i = .last lit mc) : encode i = bs := by
  obtain rfl : .token = site := by
    rw [← Machine.decode_site h]
    obtain ⟨lit, mc, rfl⟩ := hl
    rfl
  obtain ⟨rest, rfl, hrest⟩ := decodeToken_bytes h
  rw [hrest hl, List.append_nil]

/-- R71, R73: the length of an encoding. -/
theorem encode_length (i : Instr) : (encode i).length = i.size := by
  cases i with
  | seq lit off mlen => exact (Laws.EncodingSize.seq lit off mlen).1
  | last lit mc => exact (Laws.EncodingSize.last lit mc).1
  | csize v => exact (Laws.EncodingSize.csize v).1
  | dictid v => exact (Laws.EncodingSize.dictid v).1
  | bsize stored size => exact (Laws.EncodingSize.bsize stored size).1
  | bck k => exact (Laws.EncodingSize.bck k).1
  | cck k => exact (Laws.EncodingSize.cck k).1
  | _ => rfl

/-! ### Bytes that are no well-formed instruction -/

/-- An offset of 0 is rejected, whatever literals stand before it (R68, R72). -/
theorem decodeToken_of_zero_offset {lit rest : List Byte} {t : Byte} (ht : t.toNat / 16 = lenCode lit.length)
    (hlit : lit.length < 2 ^ 32) :
    decodeToken (t :: (encLen lit.length ++ lit ++ 0#8 :: 0#8 :: rest)) = .error (.offZero t lit) := by
  obtain ⟨used, hscan⟩ := scanLen_encLen (maxV := maxLit) (v := lit.length) (lit ++ 0#8 :: 0#8 :: rest)
    (by rw [maxLit]; omega)
  have hroom : ¬ (lit ++ 0#8 :: 0#8 :: rest).length < lit.length := by simp
  have hzero : decodeAfterLits t lit (0#8 :: 0#8 :: rest) = .error (.offZero t lit) := by
    simp [decodeAfterLits, leNat]
  simp only [decodeToken, ht, List.append_assoc, hscan, if_neg hroom, List.take_left, List.drop_left, hzero]

/-- A BD byte with a reserved bit set is rejected (R76, R84). -/
theorem decodeBd_of_reserved {b : Byte} (h : b.toNat / 128 = 1 ∨ b.toNat % 16 ≠ 0) :
    decodeBd b = .error (.badBd b) := by
  refine if_neg fun hres => ?_
  obtain ⟨h7, hlow, -⟩ := decodeBd_ok (if_pos hres)
  omega

/-- Four bytes whose number is not the magic number are not its bytes (R74, R84). -/
theorem decode_magic_of_ne {b0 b1 b2 b3 : Byte} (rest : List Byte) (h : leNat [b0, b1, b2, b3] ≠ 0x184D2204) :
    decode .magic (b0 :: b1 :: b2 :: b3 :: rest) = .error .badMagic := by
  have hne : [b0, b1, b2, b3] ≠ magicBytes := fun hm => h (by rw [hm]; rfl)
  simp [decode, hne]

/-- A length that has been read is within its bound (R66, R72). -/
theorem scanLen_le {maxV code v used : Nat} {bs rest : List Byte} (hc : code ≤ maxV)
    (h : scanLen maxV code bs = .done v used rest) : v ≤ maxV := by
  unfold scanLen at h
  split_ifs at h
  · exact (scanExt_done h).2.1
  · cases h
    exact hc

theorem decodeAfterLits_wf {t : Byte} {lit bs : List Byte} {i : Instr} (hlit : lit.length < 2 ^ 32)
    (h : decodeAfterLits t lit bs = .ok i) : i.wf = true := by
  match bs, h with
  | [], h =>
    cases h
    exact decide_eq_true hlit
  | [_], h => cases h
  | b0 :: b1 :: bs, h =>
    simp only [decodeAfterLits] at h
    split at h
    · cases h
    · next hoff =>
      split at h <;> cases h
      next v used rest hscan =>
      have hv := scanLen_le (by rw [maxMatchCode]; omega) hscan
      have hmlen : v + Config.minMatch < 2 ^ 32 := by
        rw [maxMatchCode] at hv
        rw [Config.minMatch]
        omega
      have hmin : 4 ≤ v + Config.minMatch := Nat.le_add_left ..
      simp only [Instr.wf, Bool.and_eq_true, decide_eq_true_eq]
      exact ⟨⟨⟨hlit, hoff⟩, hmin⟩, hmlen⟩

theorem decodeToken_wf {bs : List Byte} {i : Instr} (h : decodeToken bs = .ok i) : i.wf = true := by
  match bs, h with
  | [], h => cases h
  | t :: bs, h =>
    have ht := t.isLt
    simp only [decodeToken] at h
    split at h
    · cases h
    · cases h
    · next len used rest hscan =>
      split_ifs at h
      have hlen := scanLen_le (by rw [maxLit]; omega) hscan
      refine decodeAfterLits_wf ?_ h
      rw [maxLit] at hlen
      rw [List.length_take]
      omega

theorem decodeBlockWord_wf {w : Nat} (h : w < 2 ^ 32) : (decodeBlockWord w).wf = true := by
  unfold decodeBlockWord
  split_ifs with h0
  · rfl
  · by_cases hs : 2 ^ 31 ≤ w
    · rw [Instr.wf, decide_eq_true hs, Bool.true_or]
    · have hsize : BitVec.ofNat 31 w ≠ 0 := by
        intro hz
        have hval : w % 2 ^ 31 = 0 := by simpa using congrArg BitVec.toNat hz
        omega
      rw [Instr.wf, decide_eq_true hsize, Bool.or_true]

theorem decodeFlg_wf_eq_false_iff {b : Byte} {i : Instr} (h : decodeFlg b = .ok i) :
    i.wf = false ↔ b.toNat / 2 % 2 = 1 := by
  obtain ⟨-, rfl⟩ := decodeFlg_ok h
  simp [Instr.wf, BitVec.getLsbD, Nat.testBit_eq_decide_div_mod_eq]

theorem decodeBd_wf_eq_false_iff {b : Byte} {i : Instr} (h : decodeBd b = .ok i) :
    i.wf = false ↔ b.toNat / 16 < 4 := by
  obtain ⟨h7, -, rfl⟩ := decodeBd_ok h
  rw [Instr.wf, toNat_bdCode h7, decide_eq_false_iff_not, Nat.not_le]

/-- The instructions of the sites whose every encoding is legal. -/
theorem Instr.wf_of_site {i : Instr} (htoken : i.site ≠ .token) (hflg : i.site ≠ .flg) (hbd : i.site ≠ .bd)
    (hblock : i.site ≠ .block) : i.wf = true := by
  cases i with
  | seq => exact absurd rfl htoken
  | last => exact absurd rfl htoken
  | flg => exact absurd rfl hflg
  | bd => exact absurd rfl hbd
  | bsize => exact absurd rfl hblock
  | _ => rfl

/-- Every site but those of FLG and BD decodes to well-formed instructions only. -/
theorem decode_wf {site : Site} {bs : List Byte} {i : Instr} (hflg : site ≠ .flg) (hbd : site ≠ .bd)
    (h : decode site bs = .ok i) : i.wf = true := by
  have hsite := Machine.decode_site h
  by_cases htoken : site = .token
  · subst htoken
    exact decodeToken_wf h
  by_cases hblock : site = .block
  · subst hblock
    obtain ⟨n, hn, -, rfl⟩ := takeLe_map_ok h
    exact decodeBlockWord_wf hn
  · exact Instr.wf_of_site (hsite ▸ htoken) (hsite ▸ hflg) (hsite ▸ hbd) (hsite ▸ hblock)

end Sys2Proof
end

section
namespace Sys2Proof.Machine

/-! ### The statements on the encodings (30_encoding.md) -/

/-- Settles O50: `decode_encode`, for every instruction. -/
theorem decodeOfEncode : Obligations.DecodeOfEncode := decode_encode

/-- Settles O51: site, bytes and length of what has been decoded. -/
theorem encodeOfDecode : Obligations.EncodeOfDecode := fun _ _ i h =>
  ⟨decode_site h, encode_prefix_of_decode h, encode_length i, encode_of_decode_last h⟩

/-! #### Writes to `CMD` -/

/-- A write to `CMD` executes the command that its low byte decodes to. -/
theorem hostAct_wr_of_opcode {v : Word} {b : Byte} {i : Instr} (s : State) (hd : decodeOpcode b = .ok i)
    (hv : v.toNat % 256 = b.toNat) : hostAct (.wr 0 v) s = exec i s := by
  have hb : cmdByte v = b := BitVec.eq_of_toNat_eq ((BitVec.toNat_setWidth ..).trans hv)
  show writeCmd v s = exec i s
  rw [writeCmd, hb, decode, hd]

theorem illegalOpcode_failedUntouched {b : Byte} (s : State) (h4 : b ≠ 0x04#8) (h5 : b ≠ 0x05#8) :
    FailedUntouched { state := .error, lastCmd := b } .illegalCommand s (s.illegalOpcode b) := by
  have hframe : (Status.started b).frameCmd = false := by simp [Status.frameCmd, Status.started, h4, h5]
  have hstatus : (Status.started b).failed = { state := .error, lastCmd := b } := by
    rw [Status.failed, hframe]
    rfl
  exact ⟨hstatus, rfl, rfl, rfl, fun _ => ⟨rfl, rfl⟩, ⟨rfl, rfl⟩, fun _ => rfl, rfl, rfl, rfl⟩

/-- A reserved opcode fails a command, whether or not the host waits (R62). -/
theorem hostAct_reserved {s : State} {v : Word} (hb : s.busy = false)
    (hv : (cmdByte v).toNat ∉ [0x01, 0x02, 0x03, 0x04, 0x05, 0x10, 0x11, 0x12, 0x1F]) :
    hostAct (.wr 0 v) s = .next (s.illegalOpcode (cmdByte v))
      ∧ hostAct (.start v) s = .next (s.illegalOpcode (cmdByte v)) := by
  have hd : decode .cmd [cmdByte v] = .error (.reservedOpcode (cmdByte v)) := decodeOpcode_of_reserved hv
  have hw : reservedWrite (cmdByte v) s = s.illegalOpcode (cmdByte v) := by
    rw [reservedWrite, hb, if_neg Bool.false_ne_true]
  constructor
  · show writeCmd v s = _
    rw [writeCmd, hd, hw]
  · show startCmdWrite v s = _
    rw [startCmdWrite, hd, hw]

/-- Settles O4: the opcode map, byte by byte, and the failed command of a reserved opcode. -/
theorem opcodeMapRunsCommands : Obligations.OpcodeMapRunsCommands := by
  intro s v
  refine ⟨hostAct_wr_of_opcode (b := 0x01#8) s rfl, hostAct_wr_of_opcode (b := 0x02#8) s rfl,
    hostAct_wr_of_opcode (b := 0x03#8) s rfl, hostAct_wr_of_opcode (b := 0x04#8) s rfl,
    hostAct_wr_of_opcode (b := 0x05#8) s rfl, hostAct_wr_of_opcode (b := 0x10#8) s rfl,
    hostAct_wr_of_opcode (b := 0x11#8) s rfl, hostAct_wr_of_opcode (b := 0x12#8) s rfl,
    hostAct_wr_of_opcode (b := 0x1F#8) s rfl, fun hb hv => ?_⟩
  have hbyte : (cmdByte v).toNat = v.toNat % 256 := BitVec.toNat_setWidth ..
  rw [← hbyte] at hv
  obtain ⟨hwr, hstart⟩ := hostAct_reserved hb hv
  have hne : ∀ {b : Byte}, b.toNat ∈ [0x01, 0x02, 0x03, 0x04, 0x05, 0x10, 0x11, 0x12, 0x1F] → cmdByte v ≠ b :=
    fun hmem he => hv (he ▸ hmem)
  exact ⟨_, hwr, hstart, illegalOpcode_failedUntouched s (hne (by decide)) (hne (by decide))⟩

/-! #### Words -/

/-- Settles O52: each rejection by its own lemma, and FLG and BD as the only sites of ill-formed instructions. -/
theorem illegalEncodingsAreRejected : Obligations.IllegalEncodingsAreRejected := by
  refine ⟨fun lit rest t => decodeToken_of_zero_offset,
    fun b rest => ⟨decodeOpcode_of_reserved, fun hv => if_neg hv, decodeBd_of_reserved⟩,
    fun b0 b1 b2 b3 rest => decode_magic_of_ne rest, fun site b rest i h => ?_⟩
  by_cases hflg : site = .flg
  · subst hflg
    simp [decodeFlg_wf_eq_false_iff h]
  by_cases hbd : site = .bd
  · subst hbd
    simp [decodeBd_wf_eq_false_iff h]
  · simp [decode_wf hflg hbd h, hflg, hbd]

/-- Settles O49, by evaluation. -/
theorem decodedWords : Obligations.DecodedWords := by
  unfold Obligations.DecodedWords
  decide

end Sys2Proof.Machine
end

section
namespace Sys2Proof.Machine

/-! ### The statements on the match finder (40_match_finder.md) -/

/-! #### The hash -/

/-- R101, with the word's product and shift in unbounded naturals. -/
theorem hashWord_eq (cfg : Params) (w : Word) :
    hashWord cfg w = w.toNat * cfg.hashMult.toNat % 2 ^ 32 / 2 ^ (32 - cfg.hashLog) := by
  rw [hashWord, BitVec.toNat_ushiftRight, BitVec.toNat_mul, Nat.shiftRight_eq_div_pow]

theorem u32le_toNat_four (b0 b1 b2 b3 : Byte) :
    (u32le [b0, b1, b2, b3]).toNat = b0.toNat + 2 ^ 8 * b1.toNat + 2 ^ 16 * b2.toNat + 2 ^ 24 * b3.toNat := by
  have hlt : leNat [b0, b1, b2, b3] < 2 ^ 32 := (leNat_lt _).trans_eq (by norm_num)
  rw [u32le, toNat_w32 hlt]
  simp only [leNat]
  omega

/-- Settles O9: the hash in unbounded arithmetic, and `hashWord_lt` for its range. -/
theorem hashFormula : Obligations.HashFormula := by
  intro p b0 b1 b2 b3 _
  refine ⟨?_, hashWord_lt .., rfl, rfl⟩
  rw [hashWord_eq, u32le_toNat_four]

/-! #### The lookup -/

theorem inBytes_eq_iff (s : State) (a b n : Nat) :
    s.inBytes a n = s.inBytes b n ↔ ∀ i, i < n → s.inByte (a + i) = s.inByte (b + i) := by
  simp only [State.inBytes, List.range'_eq_map_range, List.map_map, List.map_inj_left, List.mem_range,
    Function.comp_apply]

/-- The forward extension counts the agreeing bytes up to the first that differs, or to its bound (R104). -/
theorem extend_eq_iff (s : State) (c p k n : Nat) : s.extend c p k = n ↔
    n ≤ k ∧ (∀ i, i < n → s.inByte (c + i) = s.inByte (p + i)) ∧ (n < k → s.inByte (c + n) ≠ s.inByte (p + n)) := by
  induction k generalizing c p n with
  | zero =>
    rw [State.extend]
    constructor
    · rintro rfl
      simp
    · rintro ⟨hn, -, -⟩
      omega
  | succ k ih =>
    rw [State.extend]
    by_cases hhead : s.inByte c = s.inByte p
    · rw [if_pos hhead]
      cases n with
      | zero => simp [hhead]
      | succ n =>
        have hshift : ∀ a i, a + 1 + i = a + (i + 1) := fun a i => by omega
        simp only [Nat.add_right_cancel_iff, ih, Nat.add_le_add_iff_right, Nat.add_lt_add_iff_right, hshift]
        refine and_congr_right fun _ => and_congr_left fun _ => ⟨fun h i hi => ?_, fun h i hi => h _ (by omega)⟩
        cases i with
        | zero => exact hhead
        | succ i => exact h i (by omega)
    · rw [if_neg hhead]
      constructor
      · rintro rfl
        simpa using hhead
      · rintro ⟨-, hagree, -⟩
        by_contra hne
        exact hhead (hagree 0 (by omega))

/-- A lookup hits when the bucket holds a candidate that passes the acceptance tests; the match is then the four bytes
compared and their forward extension (R104). -/
theorem mfLookup_eq_some_iff (s : State) (p winLo limit off len : Nat) :
    s.mfLookup p winLo limit = some (off, len) ↔ ∃ c : Word, s.ht.get (s.hashAt p) = some c
      ∧ (c.toNat < p ∧ p - c.toNat ≤ 65535 ∧ winLo ≤ c.toNat ∧ s.inBytes c.toNat 4 = s.inBytes p 4)
      ∧ p - c.toNat = off ∧ 4 + s.extend (c.toNat + 4) (p + 4) (limit - (p + 4)) = len := by
  unfold State.mfLookup State.mfProbe
  cases hc : s.ht.get (s.hashAt p) with
  | none => simp
  | some c =>
    simp only [Option.some.injEq, exists_eq_left', Config.maxDistance, Config.minMatch]
    split_ifs with h <;> simp [h]

/-- Two ranges agree when their first four bytes and their rests do. -/
theorem agree_four_add_iff (s : State) (c p n : Nat) :
    (∀ i, i < 4 + n → s.inByte (c + i) = s.inByte (p + i)) ↔
      s.inBytes c 4 = s.inBytes p 4 ∧ ∀ i, i < n → s.inByte (c + 4 + i) = s.inByte (p + 4 + i) := by
  simp only [inBytes_eq_iff, forall_lt_add_iff_lt_left, Nat.add_assoc]

/-- Settles O11: the four bytes that the tests compare and the forward extension together are the match. -/
theorem lookupIsLongestAcceptedMatch : Obligations.LookupIsLongestAcceptedMatch := by
  intro s p winLo limit off len hp _
  rw [mfLookup_eq_some_iff]
  refine exists_congr fun c => and_congr_right fun _ => ?_
  constructor
  · rintro ⟨⟨hlt, hdist, hwin, hfour⟩, hoff, hlen⟩
    obtain ⟨n, rfl⟩ : ∃ n, len = 4 + n := ⟨_, hlen.symm⟩
    obtain ⟨hn, hagree, hstop⟩ := (extend_eq_iff ..).1 (Nat.add_left_cancel hlen)
    have hc : p - off = c.toNat := by omega
    rw [hc, ← Nat.add_assoc, ← Nat.add_assoc]
    exact ⟨by omega, by omega, by omega, by omega, by omega, by omega,
      fun i hi => ((agree_four_add_iff ..).2 ⟨hfour, hagree⟩ i hi).symm, fun h => (hstop (by omega)).symm⟩
  · rintro ⟨hp', hoff, hdist, hwin, hfour, hend, hagree, hstop⟩
    obtain ⟨n, rfl⟩ := Nat.exists_eq_add_of_le hfour
    have hc : p - off = c.toNat := by omega
    rw [hc] at hagree hstop
    rw [← Nat.add_assoc, ← Nat.add_assoc] at hstop
    obtain ⟨hfirst, hrest⟩ := (agree_four_add_iff s c.toNat p n).1 fun i hi => (hagree i hi).symm
    have hext : s.extend (c.toNat + 4) (p + 4) (limit - (p + 4)) = n :=
      (extend_eq_iff ..).2 ⟨by omega, hrest, fun h => (hstop (by omega)).symm⟩
    exact ⟨⟨by omega, by omega, by omega, hfirst⟩, by omega, by rw [hext]⟩

/-- A match repeats the `off` bytes before it (R110). -/
theorem inByte_periodic {s : State} {p off len : Nat} (hoff : 1 ≤ off)
    (hagree : ∀ i, i < len → s.inByte (p + i) = s.inByte (p - off + i)) (hle : off ≤ p) {j : Nat} (hj : j < len) :
    s.inByte (p - off + j % off) = s.inByte (p + j) := by
  induction j using Nat.strongRecOn with
  | ind j ih =>
    by_cases hlt : j < off
    · rw [Nat.mod_eq_of_lt hlt, hagree j hj]
    · have hback : p + (j - off) = p - off + j := by omega
      rw [Nat.mod_eq_sub_mod (Nat.le_of_not_lt hlt), ih (j - off) (by omega) (by omega), hback, hagree j hj]

/-- Settles O13: the copy repeats the `off` bytes before `p`, and so does the match. -/
theorem foundMatchReplays : Obligations.FoundMatchReplays := by
  intro s free p winLo limit off len m hp hlimit hfound hbefore i hi
  obtain ⟨c, -, hc, hoff, -, -, -, -, hagree, -⟩ :=
    (lookupIsLongestAcceptedMatch s p winLo limit off len hp hlimit).1 hfound
  have hle : off ≤ p := by omega
  by_cases hip : i < p
  · rw [outByteOf, copyBack_read_outside free off len p m (.inl hip), ← outByteOf, hbefore i hip]
  · obtain ⟨j, rfl⟩ := Nat.exists_eq_add_of_le (Nat.le_of_not_lt hip)
    have hj : j < len := by omega
    have hmod := Nat.mod_lt j hoff
    rw [outByteOf_copyBack free m hoff hle hj, hbefore _ (by omega), inByte_periodic hoff hagree hle hj]

/-! #### Commands of one step -/

/-- A command whose first step ends it is that step. -/
theorem runCommand_of_one_step {c : Cmd} {s t : State} (hb : s.busy = false) (henter : enter c (s.startCmd c) = t)
    (hend : t.busy = false) : runCommand c s = t := by
  have hstep : engineStep (s.startCmd c) = t := henter
  rw [runCommand, hb, if_neg Bool.false_ne_true, State.runToEnd, State.fuel, runEngine_succ, hstep]
  exact (if_pos rfl).trans (runEngine_of_not_busy _ hend)

/-- A command that has written nothing and ends Done: `OUT` keeps its content or, below `OUT_CAP`, loses it (R29). -/
theorem endDone_unwritten {s u : State} (hout : SameOut s u) (hopr : u.opr = s.opr) :
    Unwritten 0 0 s u.endDone := by
  have hcases := u.freeOut_cases u.res.outLen.toNat u.opr.outCap.toNat
  refine ⟨fun a ha => ?_, fun a ha => ?_⟩
  · rcases hcases a with ⟨-, -, hnone⟩ | ⟨-, hread, -⟩
    · exact .inr hnone
    · exact .inl (hread.trans (hout a).1)
  · rcases hcases a with ⟨hlo, hhi, -⟩ | ⟨-, hread, hbyte⟩
    · rw [hopr] at hhi
      omega
    · exact ⟨hread.trans (hout a).1, Eq.trans hbyte (hout a).2⟩

/-- The table after an insert, entry by entry (R105). -/
theorem mfInsert_get (s : State) (p : Word) (h : Nat) : (s.mfInsert p.toNat).ht.get h =
    if h = hashWord s.cfg (u32le (s.inBytes p.toNat 4)) then some p else s.ht.get h := by
  rw [State.mfInsert_ht, Table.get_put, w32_toNat, State.hashAt]

/-- Settles O10: the operand check, then the insert. -/
theorem mfinsInsertsPosition : Obligations.MfinsInsertsPosition := by
  intro s hb
  constructor
  · intro hroom
    have hrun : exec .mfins s = .next ((s.startCmd .mfins).mfInsert s.opr.pos.toNat).endDone :=
      congrArg Host.Outcome.next (runCommand_of_one_step hb (if_neg (Nat.not_lt.2 hroom)) rfl)
    exact ⟨_, hrun, mfInsert_get (s.startCmd .mfins) s.opr.pos, rfl, rfl, rfl,
      endDone_unwritten (fun _ => ⟨rfl, rfl⟩) rfl, exec_kept hrun⟩
  · intro hshort
    have hrun : exec .mfins s = .next (s.illegalOpcode 0x12#8) :=
      congrArg Host.Outcome.next (runCommand_of_one_step hb (if_pos hshort) rfl)
    exact ⟨_, hrun, illegalOpcode_failedUntouched s (by decide) (by decide)⟩

/-! #### MFFIND and MFCLR -/

theorem extend_startCmd (cmd : Cmd) (s : State) (c p k : Nat) : (s.startCmd cmd).extend c p k = s.extend c p k := by
  induction k generalizing c p with
  | zero => rfl
  | succ k ih =>
    rw [State.extend, State.extend, ih]
    rfl

/-- The start of a command changes nothing that a lookup reads. -/
theorem mfLookup_startCmd (c : Cmd) (s : State) (p winLo limit : Nat) :
    (s.startCmd c).mfLookup p winLo limit = s.mfLookup p winLo limit := by
  unfold State.mfLookup
  simp only [extend_startCmd]
  rfl

/-- The state in which MFFIND ends when its lookup has given `r` (R106). -/
def mffindDone (r : Option (Nat × Nat)) (s : State) : State :=
  ((((s.startCmd .mffind).mfRegs s.opr.pos.toNat r).mfInsert s.opr.pos.toNat).matchResult r).endDone

theorem exec_mffind {s : State} (hb : s.busy = false) (hpos : s.opr.pos.toNat + 4 ≤ s.opr.limit.toNat)
    (hlimit : s.opr.limit.toNat ≤ s.opr.inLen.toNat) : exec .mffind s
      = .next (mffindDone (s.mfLookup s.opr.pos.toNat s.opr.winLo.toNat s.opr.limit.toNat) s) := by
  refine congrArg Host.Outcome.next (runCommand_of_one_step hb ?_ ?_)
  · rw [← mfLookup_startCmd .mffind]
    exact if_neg (not_or.2 ⟨Nat.not_lt.2 hpos, Nat.not_lt.2 hlimit⟩)
  · cases s.mfLookup s.opr.pos.toNat s.opr.winLo.toNat s.opr.limit.toNat <;> rfl

theorem mffindDone_get (r : Option (Nat × Nat)) (s : State) (h : Nat) : (mffindDone r s).ht.get h =
    if h = hashWord s.cfg (u32le (s.inBytes s.opr.pos.toNat 4)) then some s.opr.pos else s.ht.get h := by
  cases r <;> exact mfInsert_get s s.opr.pos h

theorem mffindDone_unwritten (r : Option (Nat × Nat)) (s : State) : Unwritten 0 0 s (mffindDone r s) := by
  cases r <;> exact endDone_unwritten (fun _ => ⟨rfl, rfl⟩) rfl

/-- A match has an offset and a length that their registers hold (R104). -/
theorem mfLookup_lt {s : State} {p winLo limit off len : Nat} (h : s.mfLookup p winLo limit = some (off, len))
    (hp : p + 4 ≤ limit) (hlimit : limit < 2 ^ 32) : off < 2 ^ 32 ∧ len < 2 ^ 32 := by
  have hend := mfLookup_end_le h le_rfl hp
  obtain ⟨c, -, ⟨-, hdist, -⟩, hoff, -⟩ := (mfLookup_eq_some_iff ..).1 h
  omega

/-- Settles O12: `exec_mffind`, with the two outcomes of its lookup. -/
theorem mffindLooksUpThenInserts : Obligations.MffindLooksUpThenInserts := by
  intro s hb
  constructor
  · intro hpos hlimit
    have hrun := exec_mffind hb hpos hlimit
    refine ⟨_, hrun, mffindDone_get _ s, fun hmiss => ?_, fun off len hfound => ?_, ?_, mffindDone_unwritten _ s,
      exec_kept hrun⟩
    · rw [hmiss]
      exact ⟨rfl, rfl⟩
    · obtain ⟨hoff, hlen⟩ := mfLookup_lt hfound hpos s.opr.limit.isLt
      rw [hfound]
      exact ⟨rfl, rfl, toNat_w32 hoff, toNat_w32 hlen⟩
    · cases s.mfLookup s.opr.pos.toNat s.opr.winLo.toNat s.opr.limit.toNat <;> rfl
  · intro hfail
    have hrun : exec .mffind s = .next (s.illegalOpcode 0x11#8) :=
      congrArg Host.Outcome.next (runCommand_of_one_step hb (if_pos hfail) rfl)
    exact ⟨_, hrun, illegalOpcode_failedUntouched s (by decide) (by decide)⟩

/-- Settles O8: a lookup in the cleared table has no candidate. -/
theorem mfclrClearsTable : Obligations.MfclrClearsTable := by
  intro s hb
  have hrun : exec .mfclr s = .next (s.startCmd .mfclr).mfClear.endDone :=
    congrArg Host.Outcome.next (runCommand_of_one_step hb rfl rfl)
  exact ⟨_, hrun, fun _ => rfl, rfl, rfl, rfl, endDone_unwritten (fun _ => ⟨rfl, rfl⟩) rfl, exec_kept hrun,
    fun hpos hlimit => ⟨_, exec_mffind rfl hpos hlimit, rfl, rfl⟩⟩

end Sys2Proof.Machine
end

section
namespace Sys2Proof.Machine

/-! ### How regions are opened (41_block_encoder.md, 43_frame.md) -/

/-- A busy engine with no host action pending takes its next step. -/
theorem step_of_busy {s : State} (hhost : s.host = []) (hb : s.busy = true) : step s = .next (engineStep s) := by
  rw [step_eq_machineStep, machineStep, hhost]
  exact (if_pos hb).trans (runStep_eq s)

theorem engineStep_entry {s : State} {c : Cmd} (hp : s.int.point = .entry c) : engineStep s = enter c s := by
  rw [engineStep, hp]

theorem engineStep_nextBlock {s : State} (hp : s.int.point = .nextBlock) : engineStep s = nextBlock s := by
  rw [engineStep, hp]

/-- `mlimit` stands five bytes before the region's end (R123). -/
theorem openRegion_mlimit (s : State) (lo winLo ob : Nat) {hi : Nat} (hhi : hi < 2 ^ 32) :
    (s.openRegion lo hi winLo ob).int.mlimit.toNat = hi - 5 :=
  toNat_w32 ((Nat.sub_le ..).trans_lt hhi)

/-- CBLOCK's first step, its space check passed (R121). -/
theorem enterCblock_of_room {s : State} (h : compressBound s.opr.inLen.toNat ≤ s.opr.outCap.toNat) :
    enterCblock s = s.mfClear.openRegion 0 s.opr.inLen.toNat 0 0 :=
  if_neg (Nat.not_lt.2 h)

/-- The head of CFRAME's loop while raw bytes remain (R179, R185, R186). -/
theorem nextBlock_of_lt {s : State} (h : s.int.pos.toNat < s.opr.inLen.toNat) :
    nextBlock s = (if s.int.indep then s.mfClear else s).openRegion s.int.pos.toNat
      (min s.opr.inLen.toNat (s.int.pos.toNat + s.int.bmax.toNat)) (if s.int.indep then s.int.pos.toNat else 0)
      (s.int.op.toNat + 4) :=
  if_pos h

/-! #### The header of a frame (R179 step W1) -/

theorem bit_eq_one_iff (w : Word) (i : Nat) : w.toNat / 2 ^ i % 2 = 1 ↔ w.getLsbD i = true := by
  rw [BitVec.getLsbD, Nat.testBit_eq_decide_div_mod_eq, decide_eq_true_eq]

/-- The FLG byte that the writer makes of `OPTIONS`, as a number (R13, R75, R183). -/
def flgNumber (o : Word) : Nat :=
  64 + 32 * (o.toNat / 2 ^ 0 % 2) + 16 * (o.toNat / 2 ^ 1 % 2) + 8 * (o.toNat / 2 ^ 3 % 2) + 4 * (o.toNat / 2 ^ 2 % 2)

theorem flgNumber_lt (o : Word) : flgNumber o < 2 ^ 8 := by
  unfold flgNumber
  omega

theorem flgByte_options (o : Word) :
    flgByte (optIndep o) (optBck o) (optCsz o) (optCck o) false false = BitVec.ofNat 8 (flgNumber o) := by
  simp only [flgByte, flgNumber, optIndep, optBck, optCsz, optCck, BitVec.getLsbD, Nat.toNat_testBit,
    Bool.toNat_false, Nat.mul_zero, Nat.add_zero]

theorem writerDescriptor_eq (cfg : Params) (o : Word) (n : Nat) : writerDescriptor cfg o n =
    [BitVec.ofNat 8 (flgNumber o), BitVec.ofNat 8 (16 * cfg.blockMaxCode)]
      ++ if o.toNat / 2 ^ 3 % 2 = 1 then leBytes 8 n else [] := by
  rw [writerDescriptor, flgByte_options, optCsz]
  simp only [bit_eq_one_iff]

theorem blockMaxCode_le {cfg : Params} (h : cfg.wf = true) : cfg.blockMaxCode ≤ 7 := by
  simp only [Params.wf, Bool.and_eq_true, decide_eq_true_eq] at h
  exact h.2

theorem headerByte_eq (cfg : Params) (descriptor : List Byte) :
    headerByte cfg descriptor = BitVec.ofNat 8 ((ck32 cfg descriptor).toNat / 2 ^ 8 % 2 ^ 8) := by
  apply BitVec.eq_of_toNat_eq
  rw [headerByte, BitVec.extractLsb'_toNat, BitVec.toNat_ofNat, Nat.mod_mod, Nat.shiftRight_eq_div_pow]

theorem descWord_ofNat {flg bd hc : Nat} (hflg : flg < 2 ^ 8) (hbd : bd < 2 ^ 8) (hhc : hc < 2 ^ 8) :
    descWord (BitVec.ofNat 8 flg) (BitVec.ofNat 8 bd) (BitVec.ofNat 8 hc) = w32 (flg + 2 ^ 8 * bd + 2 ^ 16 * hc) := by
  simp only [descWord, BitVec.toNat_ofNat, Nat.mod_eq_of_lt hflg, Nat.mod_eq_of_lt hbd, Nat.mod_eq_of_lt hhc]

/-- CFRAME with the options taken, before its space check (R179). -/
def State.withOptions (s : State) : State :=
  { s with
    status := { s.status with fsm := .header }, res := { s.res with blockIdx := 0#32 }
    int :=
      { s.int with
        indep := optIndep s.opr.options, bck := optBck s.opr.options, cck := optCck s.opr.options
        csz := optCsz s.opr.options, did := false, bmax := w32 (blockMax s.cfg.blockMaxCode), pos := 0#32
        op := 0#32, cc := [] } }

theorem enterCframe_of_room {s : State} (h : frameBound (blockMax s.cfg.blockMaxCode) s.opr.inLen.toNat
      (optBck s.opr.options) (optCck s.opr.options) (optCsz s.opr.options) ≤ s.opr.outCap.toNat) :
    enterCframe s = writeHeader s.withOptions :=
  if_neg (Nat.not_lt.2 h)

/-- The header written for a descriptor that begins with the bytes `flg` and `bd`, field by field. -/
theorem writeHeader_eq {s : State} {flg bd hc : Byte} {rest : List Byte}
    (hd : writerDescriptor s.cfg s.opr.options s.opr.inLen.toNat = flg :: bd :: rest)
    (hhc : headerByte s.cfg (flg :: bd :: rest) = hc) :
    writeHeader s = { s with
      ht := [], outb := s.outb.writeBytes 0 (magicBytes ++ (flg :: bd :: rest) ++ [hc])
      status := { s.status with fsm := .blocks }
      res := { s.res with
        desc := descWord flg bd hc
        csizeLo := if optCsz s.opr.options then s.opr.inLen else s.res.csizeLo
        csizeHi := if optCsz s.opr.options then 0#32 else s.res.csizeHi }
      int := { s.int with
        flg := flg, bd := bd, op := w32 (magicBytes ++ (flg :: bd :: rest) ++ [hc]).length, point := .nextBlock } } := by
  have hlen : 4 + (flg :: bd :: rest).length + 1 = (magicBytes ++ (flg :: bd :: rest) ++ [hc]).length := by
    simp only [List.length_append]
    rfl
  simp only [writeHeader, hd, hhc, w32_toNat, hlen]
  rfl

/-- Settles O20: the first steps of CBLOCK and CFRAME, and the two cases of CFRAME's loop. -/
theorem regionsAreOpened : Obligations.RegionsAreOpened := by
  intro s hhost hb n lo opened
  have hn : n < 2 ^ 32 := s.opr.inLen.isLt
  have hstep := step_of_busy hhost hb
  refine ⟨fun hp hroom => ?_, fun hp hcfg => ?_, fun hp hlo => ?_, fun hp hlo => ?_⟩
  · rw [hstep, engineStep_entry hp, enter, enterCblock_of_room hroom]
    exact ⟨_, rfl, ⟨rfl, fun _ => openRegion_mlimit _ _ _ _ hn⟩, fun _ => rfl⟩
  · intro bit bmax flg bd descriptor hc header hroom
    have hbit : ∀ i, bit i = 1 ↔ s.opr.options.getLsbD i = true := bit_eq_one_iff _
    have hdesc : writerDescriptor s.cfg s.opr.options n = descriptor := writerDescriptor_eq ..
    have hhc : headerByte s.cfg descriptor = BitVec.ofNat 8 hc := headerByte_eq ..
    have hword : descWord (BitVec.ofNat 8 flg) (BitVec.ofNat 8 bd) (BitVec.ofNat 8 hc)
        = w32 (flg + 2 ^ 8 * bd + 2 ^ 16 * hc) := by
      have hcode := blockMaxCode_le hcfg
      exact descWord_ofNat (flgNumber_lt s.opr.options) (by omega) (Nat.mod_lt _ (by decide))
    simp only [hbit, Bool.decide_eq_true] at hroom ⊢
    rw [hstep, engineStep_entry hp, enter, enterCframe_of_room hroom, writeHeader_eq (s := s.withOptions) hdesc hhc,
      hword]
    exact ⟨_, rfl, fun _ => rfl, rfl, s.outBytes_outWrite 0 header,
      fun a ha => s.outb.read_writeBytes_outside (.inr ((Nat.zero_add _).trans_le ha))⟩
  · rw [hstep, engineStep_nextBlock hp, nextBlock_of_lt hlo]
    refine ⟨_, rfl, ⟨?_, fun _ => openRegion_mlimit _ _ _ _ ((Nat.min_le_left ..).trans_lt hn)⟩, fun hindep _ => ?_,
      fun hindep => ?_⟩
    · cases s.int.indep <;> rfl
    · rw [hindep]
      rfl
    · rw [hindep]
      rfl
  · rw [hstep, engineStep_nextBlock hp, nextBlock]
    exact congrArg Host.Outcome.next (if_neg (Nat.not_lt.2 hlo))

end Sys2Proof.Machine
end

section
namespace Sys2Proof.Machine

/-! ### Ranges of `OUT`, and the end of a command -/

theorem outBytes_append (s : State) (a m n : Nat) : s.outBytes a (m + n) = s.outBytes a m ++ s.outBytes (a + m) n := by
  rw [State.outBytes, ← List.range'_append_1, List.map_append]
  rfl

theorem outBytes_congr {s t : State} {a n : Nat} (h : ∀ i, a ≤ i → i < a + n → t.outByte i = s.outByte i) :
    t.outBytes a n = s.outBytes a n :=
  List.map_congr_left fun i hi => h i (List.mem_range'_1.1 hi).1 (List.mem_range'_1.1 hi).2

theorem outBytes_of_outb {s t : State} {a n : Nat} (h : t.outb = s.outb) (hfree : t.outFree = s.outFree) :
    t.outBytes a n = s.outBytes a n :=
  outBytes_congr fun i _ _ => by rw [State.outByte, State.outByte, h, hfree]

theorem outBytes_outWrite_outside (s : State) {a lo n : Nat} {bs : List Byte} (h : lo + n ≤ a ∨ a + bs.length ≤ lo) :
    (s.outWrite a bs).outBytes lo n = s.outBytes lo n :=
  outBytes_congr fun i hlo hhi => by rw [State.outByte_outWrite, if_neg (by omega)]

/-- Bytes written behind a range prolong it. -/
theorem outBytes_outWrite_append (s : State) {lo a : Nat} (bs : List Byte) (h : lo ≤ a) :
    (s.outWrite a bs).outBytes lo (a - lo + bs.length) = s.outBytes lo (a - lo) ++ bs := by
  have ha : lo + (a - lo) = a := Nat.add_sub_cancel' h
  rw [outBytes_append, outBytes_outWrite_outside s (.inl ha.le), ha, State.outBytes_outWrite]

/-- Bytes written just before others. -/
theorem outBytes_outWrite_before {s : State} {a : Nat} (bs : List Byte) {cs : List Byte}
    (h : s.outBytes (a + bs.length) cs.length = cs) : (s.outWrite a bs).outBytes a (bs ++ cs).length = bs ++ cs := by
  rw [List.length_append, outBytes_append, State.outBytes_outWrite, outBytes_outWrite_outside s (.inr (Nat.le_refl _)), h]

/-- Bytes written just behind others. -/
theorem outBytes_outWrite_behind {s : State} {a : Nat} {bs : List Byte} (cs : List Byte)
    (h : s.outBytes a bs.length = bs) : (s.outWrite (a + bs.length) cs).outBytes a (bs ++ cs).length = bs ++ cs := by
  rw [List.length_append, outBytes_append, State.outBytes_outWrite, outBytes_outWrite_outside s (.inl (Nat.le_refl _)), h]

/-- The bytes that a write at `op` appends to the stream (R123). -/
theorem outBytes_emit (s : State) {lo : Nat} (bs : List Byte) (h : lo ≤ s.int.op.toNat) :
    (s.emit bs).outBytes lo (s.int.op.toNat - lo + bs.length) = s.outBytes lo (s.int.op.toNat - lo) ++ bs :=
  outBytes_outWrite_append s bs h

theorem State.outBytes_emit_self (s : State) (bs : List Byte) :
    (s.emit bs).outBytes s.int.op.toNat bs.length = bs :=
  s.outBytes_outWrite s.int.op.toNat bs

theorem sameOutBut_outWrite (s : State) {a lo hi : Nat} {bs : List Byte} (hlo : lo ≤ a) (hhi : a + bs.length ≤ hi) :
    SameOutBut lo hi s (s.outWrite a bs) :=
  fun _ ha => s.outb.read_writeBytes_outside (by omega)

theorem SameOutBut.trans {lo hi : Nat} {s t u : State} (h : SameOutBut lo hi s t) (h' : SameOutBut lo hi t u) :
    SameOutBut lo hi s u :=
  fun a ha => (h' a ha).trans (h a ha)

theorem SameOutBut.mono {lo hi lo' hi' : Nat} {s t : State} (h : SameOutBut lo hi s t) (hlo : lo' ≤ lo) (hhi : hi ≤ hi') :
    SameOutBut lo' hi' s t :=
  fun a ha => h a (by omega)

/-- A byte that was not written reads as before, when no byte has lost its content. -/
theorem SameOutBut.outByte {lo hi : Nat} {s t : State} (h : SameOutBut lo hi s t) (hfree : t.outFree = s.outFree)
    {a : Nat} (ha : a < lo ∨ hi ≤ a) : t.outByte a = s.outByte a := by
  rw [State.outByte, State.outByte, outByteOf, outByteOf, h a ha, hfree]

/-- The output of a command that ends Done is what stood there (R29). -/
theorem outBytes_finish (s : State) (outLen inPos : Word) : (s.finish outLen inPos).outBytes 0 outLen.toNat
    = s.outBytes 0 outLen.toNat := by
  refine outBytes_congr fun i _ hi => ?_
  rcases s.freeOut_cases outLen.toNat s.opr.outCap.toNat i with ⟨hle, -, -⟩ | ⟨-, -, hbyte⟩
  · omega
  · exact hbyte

/-- A command that ends Done has written no byte before `lo`, nor behind `OUT_CAP`; one from `OUT_LEN` on is as before or
has lost its content (R29). -/
theorem finish_unwritten {s u : State} {lo : Nat} {outLen inPos : Word} (hout : SameOutBut lo s.opr.outCap.toNat s u)
    (hfree : u.outFree = s.outFree) (hopr : u.opr = s.opr) (hlo : lo ≤ outLen.toNat) :
    Unwritten lo outLen.toNat s (u.finish outLen inPos) := by
  have hcases := u.freeOut_cases outLen.toNat u.opr.outCap.toNat
  refine ⟨fun a ha => ?_, fun a ha => ?_⟩
  · rcases hcases a with ⟨-, -, hnone⟩ | ⟨hfar, hread, -⟩
    · exact .inr hnone
    · rw [hopr] at hfar
      exact .inl (Eq.trans hread (hout a (by omega)))
  · rcases hcases a with ⟨hle, hlt, -⟩ | ⟨-, hread, hbyte⟩
    · rw [hopr] at hlt
      omega
    · exact ⟨Eq.trans hread (hout a (by omega)), Eq.trans hbyte (hout.outByte hfree (by omega))⟩

/-! ### One position of the encoder's scan (41_block_encoder.md rule R123) -/

/-- `k` bytes can be put before a match at `p` with source `c` (R107). -/
structure ExtendsBack (s : State) (anchor winLo p c k : Nat) : Prop where
  pending : k ≤ p - anchor
  window : k ≤ c - winLo
  agree : ∀ j, j < k → s.inByte (p - 1 - j) = s.inByte (c - 1 - j)

/-- The loop of `MF_ExtendBack` extends as far as it can, or to its bound (R107). -/
theorem extendBack_spec (s : State) (anchor winLo k p c : Nat) {n : Nat} (hn : s.extendBack anchor winLo k p c = n) :
    ExtendsBack s anchor winLo p c n
      ∧ (n < k → anchor < p - n → winLo < c - n → s.inByte (p - n - 1) ≠ s.inByte (c - n - 1)) := by
  induction k generalizing p c n with
  | zero =>
    obtain rfl : 0 = n := hn
    exact ⟨⟨Nat.zero_le _, Nat.zero_le _, nofun⟩, nofun⟩
  | succ k ih =>
    rw [State.extendBack] at hn
    split_ifs at hn with h
    · obtain ⟨hp, hc, hsame⟩ := h
      subst hn
      obtain ⟨⟨hpend, hwin, hagree⟩, hstop⟩ := ih (p - 1) (c - 1) rfl
      refine ⟨⟨by omega, by omega, fun j hj => ?_⟩, fun hk ha hw => ?_⟩
      · cases j with
        | zero => exact hsame
        | succ j => simpa only [Nat.sub_sub, Nat.add_comm, Nat.add_left_comm] using hagree j (by omega)
      · simpa only [Nat.sub_sub, Nat.add_comm 1] using hstop (by omega) (by omega) (by omega)
    · subst hn
      exact ⟨⟨Nat.zero_le _, Nat.zero_le _, nofun⟩, fun _ ha hw hsame => h ⟨ha, hw, hsame⟩⟩

/-- `MF_ExtendBack` moves a match by a number of bytes, the largest possible or 0 (R107). -/
theorem mfExtendBack_cases (s : State) (p off len anchor winLo : Nat) : ∃ k,
    s.mfExtendBack p off len anchor winLo = (p - k, len + k) ∧ ExtendsBack s anchor winLo p (p - off) k
      ∧ (s.cfg.backwardExtend = false → k = 0)
      ∧ (s.cfg.backwardExtend = true → anchor < p - k → winLo < p - off - k →
          s.inByte (p - k - 1) ≠ s.inByte (p - off - k - 1)) := by
  unfold State.mfExtendBack
  split_ifs with hb
  · obtain ⟨hext, hstop⟩ := extendBack_spec s anchor winLo p p (p - off) rfl
    exact ⟨_, rfl, hext, fun h => absurd hb (by simp [h]), fun _ ha => hstop (by omega) ha⟩
  · exact ⟨0, rfl, ⟨Nat.zero_le _, Nat.zero_le _, nofun⟩, fun _ => rfl, fun h => absurd h hb⟩

/-- The table and MF's registers after the lookup at `pos` (R106). -/
def State.lookedUp (s : State) : State :=
  (s.mfFind s.int.pos.toNat s.int.winLo.toNat s.int.mlimit.toNat).2

/-- The lookup enters `pos` in the table, and no other position (R105). -/
theorem lookedUp_get (s : State) (h : Nat) : s.lookedUp.ht.get h =
    if h = hashWord s.cfg (u32le (s.inBytes s.int.pos.toNat 4)) then some s.int.pos else s.ht.get h :=
  mfInsert_get (s.mfRegs s.int.pos.toNat _) s.int.pos h

/-- What a hit moves: the table, `OUT`, the cursors and MF's own registers. -/
theorem pastMatch_emit_lookedUp (s : State) (bs : List Byte) (n : Nat) :
    let t := (s.lookedUp.emit bs).pastMatch n
    t = { s with ht := t.ht, outb := t.outb, int := { s.int with
      pos := w32 n, anchor := w32 n, op := w32 (s.int.op.toNat + bs.length)
      h := t.int.h, cand := t.int.cand, mlen := t.int.mlen } } := rfl

/-- A match, extended backward to `m`, is written as a SEQ with the pending literals and passed (R123). -/
theorem emitMatch_of_extended {s : State} {off len : Nat} {m : Nat × Nat}
    (h : s.mfExtendBack s.int.pos.toNat off len s.int.anchor.toNat s.int.winLo.toNat = m) : s.emitMatch off len
      = (s.emit (encode (.seq (s.pendingLits m.1) (BitVec.ofNat 16 off) m.2))).pastMatch (m.1 + m.2) := by
  subst h
  rfl

theorem pastMatch_outBytes (n : Nat) (s : State) : (s.pastMatch n).outBytes = s.outBytes := rfl

/-- A miss: one more pending literal (R123). -/
theorem scanOne_of_miss {s : State} (h : s.mfLookup s.int.pos.toNat s.int.winLo.toNat s.int.mlimit.toNat = none) :
    scanOne s = s.lookedUp.atPos (s.int.pos.toNat + 1) := by
  rcases scanOne_cases s with ⟨-, he⟩ | ⟨off, len, hm, -⟩
  · exact he
  · exact nomatch h.symm.trans hm

/-- A hit: the pending literals and the match, extended backward, written as one SEQ and passed (R123, R107). -/
theorem scanOne_of_hit {s : State} {off len : Nat}
    (h : s.mfLookup s.int.pos.toNat s.int.winLo.toNat s.int.mlimit.toNat = some (off, len)) :
    ∃ k, ExtendsBack s s.int.anchor.toNat s.int.winLo.toNat s.int.pos.toNat (s.int.pos.toNat - off) k
      ∧ (s.cfg.backwardExtend = false → k = 0)
      ∧ (s.cfg.backwardExtend = true → s.int.anchor.toNat < s.int.pos.toNat - k →
          s.int.winLo.toNat < s.int.pos.toNat - off - k →
          s.inByte (s.int.pos.toNat - k - 1) ≠ s.inByte (s.int.pos.toNat - off - k - 1))
      ∧ scanOne s = (s.lookedUp.emit (encode (.seq
            (s.inBytes s.int.anchor.toNat (s.int.pos.toNat - k - s.int.anchor.toNat)) (BitVec.ofNat 16 off) (len + k)))).pastMatch
          (s.int.pos.toNat + len) := by
  rcases scanOne_cases s with ⟨hm, -⟩ | ⟨off', len', hm, he⟩
  · exact nomatch hm.symm.trans h
  obtain ⟨rfl, rfl⟩ : off' = off ∧ len' = len := by simpa using hm.symm.trans h
  have hend := mfExtendBack_end s.lookedUp s.int.pos.toNat off' len' s.int.anchor.toNat s.int.winLo.toNat
  obtain ⟨k, hk, hext, hnone, hmax⟩ :=
    mfExtendBack_cases s.lookedUp s.int.pos.toNat off' len' s.int.anchor.toNat s.int.winLo.toNat
  rw [hk] at hend
  refine ⟨k, ⟨hext.pending, hext.window, hext.agree⟩, hnone, hmax, he.trans ((emitMatch_of_extended hk).trans ?_)⟩
  rw [hend]
  rfl

theorem engineStep_scan {s : State} (hp : s.int.point = .scan) : engineStep s = scanState s := by
  rw [engineStep, hp]

/-- Settles O21: a miss, or a hit with its extension backward. -/
theorem scanAsksTheMatchFinder : Obligations.ScanAsksTheMatchFinder := by
  intro s hhost hb hp hroom
  dsimp only
  rw [step_of_busy hhost hb, engineStep_scan hp, scanState, if_pos hroom]
  cases hfound : s.mfLookup s.int.pos.toNat s.int.winLo.toNat s.int.mlimit.toNat with
  | none =>
    rw [scanOne_of_miss hfound]
    exact ⟨_, rfl, lookedUp_get s, fun _ => rfl, nofun⟩
  | some m =>
    obtain ⟨off, len⟩ := m
    obtain ⟨k, hext, hnone, hmax, he⟩ := scanOne_of_hit hfound
    rw [he]
    refine ⟨_, rfl, lookedUp_get s, nofun, fun off' len' hm => ?_⟩
    cases hm
    refine ⟨k, hnone, fun hb => ⟨hext.pending, hext.window, hext.agree, hmax hb⟩, pastMatch_emit_lookedUp .., ?_,
      fun a ha => s.outb.read_writeBytes_outside ha⟩
    rw [pastMatch_outBytes]
    exact s.lookedUp.outBytes_emit_self _

/-- Settles O15: the bound has at most 33 bits, so its two words hold it. -/
theorem cboundGivesBound : Obligations.CboundGivesBound := by
  intro s hb
  have hrun : exec .cbound s = .next (enterCbound (s.startCmd .cbound)) :=
    congrArg Host.Outcome.next (runCommand_of_one_step hb rfl rfl)
  refine ⟨_, hrun, ?_, rfl, rfl, rfl, rfl, endDone_unwritten (fun _ => ⟨rfl, rfl⟩) rfl, exec_kept hrun⟩
  show (w32 (compressBound s.opr.inLen.toNat)).toNat + 2 ^ 32 * (w32 (compressBound s.opr.inLen.toNat / 2 ^ 32)).toNat
    = compressBound s.opr.inLen.toNat
  have hn := s.opr.inLen.isLt
  have hbound : compressBound s.opr.inLen.toNat / 2 ^ 32 < 2 ^ 32 := by
    rw [compressBound]
    omega
  rw [toNat_w32 hbound, BitVec.toNat_ofNat]
  exact Nat.mod_add_div ..

end Sys2Proof.Machine
end

section
namespace Sys2Proof.Machine

/-! ### The end of a region (41_block_encoder.md rules R123, R126; 43_frame.md rule R179) -/

/-- The token stream of a region with the pending literals as its LAST (R123). -/
def State.stream (s : State) : List Byte :=
  s.outBytes s.int.ob.toNat (s.int.op.toNat - s.int.ob.toNat) ++ encode (.last (s.pendingLits s.int.blkHi.toNat) 0#4)

/-- The raw bytes of the region. -/
def State.rawBlock (s : State) : List Byte := s.inBytes s.int.blkLo.toNat (s.int.blkHi.toNat - s.int.blkLo.toNat)

/-- The stored decision on the region (R126). -/
def State.stores (s : State) : Bool :=
  decide (s.int.blkHi.toNat - s.int.blkLo.toNat ≤ s.stream.length + s.cfg.storedOverhead)

/-- What the region becomes: its raw bytes, or its token stream. -/
def State.payload (s : State) : List Byte := if s.stores then s.rawBlock else s.stream

/-- The data block that CFRAME makes of the region (R179, R80, R81). -/
def State.frameBlock (s : State) : List Byte :=
  encode (.bsize s.stores (BitVec.ofNat 31 s.payload.length)) ++ s.payload
    ++ if s.int.bck then encode (.bck (ck32 s.cfg s.payload)) else []

theorem stream_length (s : State) : s.stream.length = s.int.op.toNat - s.int.ob.toNat
    + (encode (.last (s.pendingLits s.int.blkHi.toNat) 0#4)).length := by
  rw [State.stream, List.length_append, State.outBytes_length]

theorem rawBlock_length (s : State) : s.rawBlock.length = s.int.blkHi.toNat - s.int.blkLo.toNat := s.inBytes_length ..

/-- `OUT` and `op` replaced: all that the writes at the end of a region change. -/
def State.withOut (m : Memory) (op : Word) (s : State) : State := { s with outb := m, int := { s.int with op := op } }

/-- `u` differs from `s` in `OUT` and `op` only, its bytes before `lo` and from `OUT_CAP` on are those of `s`, and `bs`
stands at `lo`. -/
structure HasWritten (lo : Nat) (bs : List Byte) (s u : State) : Prop where
  same : u = s.withOut u.outb u.int.op
  bytes : u.outBytes lo bs.length = bs
  outside : SameOutBut lo s.opr.outCap.toNat s u

theorem HasWritten.withOut {lo : Nat} {bs : List Byte} {s u : State} (h : HasWritten lo bs s u) (m : Memory) (op : Word) :
    u.withOut m op = s.withOut m op := by
  rw [h.same]
  rfl

theorem hasWritten_emit (s : State) {lo : Nat} (bs : List Byte) (hlo : lo ≤ s.int.op.toNat)
    (hend : s.int.op.toNat + bs.length ≤ s.opr.outCap.toNat) :
    HasWritten lo (s.outBytes lo (s.int.op.toNat - lo) ++ bs) s (s.emit bs) := by
  refine ⟨rfl, ?_, sameOutBut_outWrite s hlo hend⟩
  rw [List.length_append, State.outBytes_length]
  exact outBytes_emit s bs hlo

theorem HasWritten.outWrite {lo : Nat} {bs : List Byte} {s u : State} (h : HasWritten lo bs s u) (cs : List Byte)
    (hend : lo + cs.length ≤ s.opr.outCap.toNat) : HasWritten lo cs s (u.outWrite lo cs) :=
  ⟨h.withOut (u.outb.writeBytes lo cs) u.int.op, u.outBytes_outWrite lo cs,
    h.outside.trans (sameOutBut_outWrite u (Nat.le_refl _) hend)⟩

section Region
variable {s : State} (hob : s.int.ob.toNat ≤ s.int.op.toNat)
  (hend : s.int.op.toNat + (encode (.last (s.pendingLits s.int.blkHi.toNat) 0#4)).length ≤ s.opr.outCap.toNat)
include hob hend

theorem streamLen_emitLast : s.emitLast.streamLen = s.stream.length := by
  have hcap := s.opr.outCap.isLt
  show (w32 (s.int.op.toNat + (encode (.last (s.pendingLits s.int.blkHi.toNat) 0#4)).length)).toNat - s.int.ob.toNat = _
  rw [toNat_w32 (hend.trans_lt hcap), stream_length]
  omega

theorem storeRaw_emitLast : s.emitLast.storeRaw = s.stores := by
  rw [State.storeRaw, streamLen_emitLast hob hend]
  rfl

theorem emitLast_hasWritten : HasWritten s.int.ob.toNat s.stream s s.emitLast := hasWritten_emit s _ hob hend

/-- The payload settled: the token stream, or the raw bytes in its place (R126). -/
theorem settlePayload_emitLast
    (hraw : s.int.ob.toNat + (s.int.blkHi.toNat - s.int.blkLo.toNat) ≤ s.opr.outCap.toNat) :
    ∃ u, settlePayload s.emitLast = (u, s.payload.length, s.stores) ∧ HasWritten s.int.ob.toNat s.payload s u := by
  have hstream := emitLast_hasWritten hob hend
  rw [← rawBlock_length] at hraw
  rw [settlePayload, storeRaw_emitLast hob hend, streamLen_emitLast hob hend, State.payload]
  cases s.stores with
  | true =>
    refine ⟨s.emitLast.outWrite s.int.ob.toNat s.rawBlock, ?_, hstream.outWrite _ hraw⟩
    rw [if_pos rfl, if_pos rfl, rawBlock_length]
    rfl
  | false => exact ⟨s.emitLast, rfl, hstream⟩

end Region

/-- CBLOCK ends with the payload of its one region (R121). -/
theorem endCblock_eq {s : State} (hob : s.int.ob = 0#32) (hlo : s.int.blkLo = 0#32) (hhi : s.int.blkHi = s.opr.inLen) :
    endCblock s = { (settlePayload s).1 with status := { s.status with stored := (settlePayload s).2.2 } }.finish
      (w32 (settlePayload s).2.1) s.opr.inLen := by
  have hzero : (0#32).toNat = 0 := rfl
  cases h : s.storeRaw <;> simp [endCblock, settlePayload, h, hob, hlo, hhi, hzero]

/-- A size word before a payload, `op` behind it (R80). -/
theorem writeSizeWord_hasWritten {s u : State} {bs : List Byte} (stored : Bool)
    (hu : HasWritten s.int.ob.toNat bs s u) (h4 : 4 ≤ s.int.ob.toNat) (hlen : bs.length < 2 ^ 31)
    (hroom : s.int.ob.toNat + bs.length ≤ s.opr.outCap.toNat) :
    (writeSizeWord (u, bs.length, stored)).int.op = w32 (s.int.ob.toNat + bs.length)
      ∧ HasWritten (s.int.ob.toNat - 4) (encode (.bsize stored (BitVec.ofNat 31 bs.length)) ++ bs) s
        (writeSizeWord (u, bs.length, stored)) := by
  have hob : u.int.ob = s.int.ob := congrArg (fun v => v.int.ob) hu.same
  have hword : leBytes 4 (blockWord stored bs.length) = encode (.bsize stored (BitVec.ofNat 31 bs.length)) := by
    rw [encode, BitVec.toNat_ofNat, Nat.mod_eq_of_lt hlen]
  have h4' : (encode (.bsize stored (BitVec.ofNat 31 bs.length))).length = 4 := leBytes_length ..
  have heq : writeSizeWord (u, bs.length, stored)
      = u.withOut (u.outb.writeBytes (s.int.ob.toNat - 4) (encode (.bsize stored (BitVec.ofNat 31 bs.length))))
          (w32 (s.int.ob.toNat + bs.length)) := by
    simp only [writeSizeWord, hob, hword]
    rfl
  rw [heq]
  refine ⟨rfl, hu.withOut .., ?_, ?_⟩
  · refine outBytes_outWrite_before (s := u) _ ?_
    rw [h4', Nat.sub_add_cancel h4]
    exact hu.bytes
  · exact (hu.outside.mono (Nat.sub_le ..) (Nat.le_refl _)).trans
      (sameOutBut_outWrite u (Nat.le_refl _) (by omega))

/-- The end of a data block whose payload has been settled (R179, R80, R81). -/
theorem writeBlockCksum_hasWritten {s u : State} (hu : HasWritten s.int.ob.toNat s.payload s u)
    (h4 : 4 ≤ s.int.ob.toNat) (hlen : s.payload.length < 2 ^ 31)
    (hroom : s.int.ob.toNat + s.payload.length + 4 ≤ s.opr.outCap.toNat) :
    let v := writeBlockCksum s.payload.length (writeSizeWord (u, s.payload.length, s.stores))
    v.int.op = w32 (s.int.ob.toNat - 4 + s.frameBlock.length)
      ∧ HasWritten (s.int.ob.toNat - 4) s.frameBlock s v := by
  have hcap := s.opr.outCap.isLt
  obtain ⟨hop, hw⟩ := writeSizeWord_hasWritten s.stores hu h4 hlen (by omega)
  set v := writeSizeWord (u, s.payload.length, s.stores)
  have hword : (encode (.bsize s.stores (BitVec.ofNat 31 s.payload.length))).length = 4 := leBytes_length ..
  have hop' : v.int.op.toNat = s.int.ob.toNat - 4
      + (encode (.bsize s.stores (BitVec.ofNat 31 s.payload.length)) ++ s.payload).length := by
    rw [hop, toNat_w32 (by omega), List.length_append, hword]
    omega
  have hbck : v.int.bck = s.int.bck := congrArg (fun w => w.int.bck) hw.same
  have hob : v.int.ob = s.int.ob := congrArg (fun w => w.int.ob) hw.same
  have hcfg : v.cfg = s.cfg := congrArg (fun w => w.cfg) hw.same
  dsimp only
  rw [writeBlockCksum, hbck, State.frameBlock]
  cases s.int.bck with
  | false =>
    simp only [Bool.false_eq_true, if_false, List.append_nil]
    exact ⟨by rw [← hop', w32_toNat], hw⟩
  | true =>
    simp only [if_true]
    have hsum : ∀ k : Word, (encode (.bck k)).length = 4 := fun k => leBytes_length ..
    have hpay : v.outBytes s.int.ob.toNat s.payload.length = s.payload := by
      have hsplit := hw.bytes
      rw [List.length_append, outBytes_append, hword, Nat.sub_add_cancel h4] at hsplit
      exact (List.append_inj hsplit (by rw [State.outBytes_length, hword])).2
    rw [hob, hcfg, hpay]
    refine ⟨?_, hw.withOut .., ?_, ?_⟩
    · rw [List.length_append, ← Nat.add_assoc, ← hop']
      rfl
    · rw [State.emit, hop']
      exact outBytes_outWrite_behind (s := v) _ hw.bytes
    · refine hw.outside.trans (sameOutBut_outWrite v ?_ ?_)
      · omega
      · rw [hop, toNat_w32 (by omega)]
        exact (Nat.add_le_add_left (leBytes_length 4 _).le _).trans hroom

/-! #### What the steps of the engine leave as it is -/

theorem engineStep_kept (s : State) : Kept s (engineStep s) := by
  have hgiven := engineStep_given s
  have field : ∀ {α : Type} (f : Given → α), f (engineStep s).toGiven = f s.toGiven := fun f => congrArg f hgiven
  exact ⟨⟨(engineStep_tame s).1, field Given.cfg⟩,
    fun a => field fun g => (g.inb.read a).getD (Config.freeInByte g.inEpoch a),
    field Given.host, field Given.rdData, field Given.rdBytes⟩

theorem endCblock_ht (s : State) : (endCblock s).ht = s.ht := by
  simp only [endCblock]
  split_ifs <;> rfl

theorem endFrameBlock_ht (s : State) : (endFrameBlock s).ht = s.ht := by
  simp only [endFrameBlock, settlePayload]
  split_ifs <;> rfl

end Sys2Proof.Machine
end

section
namespace Sys2Proof.Machine

section Region
variable {s : State} (hob : s.int.ob.toNat ≤ s.int.op.toNat)
  (hend : s.int.op.toNat + (encode (.last (s.pendingLits s.int.blkHi.toNat) 0#4)).length ≤ s.opr.outCap.toNat)
  (hraw : s.int.ob.toNat + (s.int.blkHi.toNat - s.int.blkLo.toNat) ≤ s.opr.outCap.toNat)
include hob hend hraw

theorem payload_length_le : s.int.ob.toNat + s.payload.length ≤ s.opr.outCap.toNat := by
  rw [State.payload]
  split_ifs
  · rw [rawBlock_length]
    exact hraw
  · rw [stream_length]
    omega

/-- CBLOCK's end: the payload in `OUT`, `STORED` as decided, the cursors behind input and output (R121, R126). -/
theorem endCblock_emitLast (hob0 : s.int.ob = 0#32) (hlo : s.int.blkLo = 0#32) (hhi : s.int.blkHi = s.opr.inLen) :
    ∃ u, HasWritten 0 s.payload s u
      ∧ endCblock s.emitLast
        = { u with status := { s.status with stored := s.stores } }.finish (w32 s.payload.length) s.opr.inLen := by
  obtain ⟨u, hu, hw⟩ := settlePayload_emitLast hob hend hraw
  rw [hob0] at hw
  rw [endCblock_eq (s := s.emitLast) hob0 hlo hhi, hu]
  exact ⟨u, hw, rfl⟩

end Region

/-- Settles O22: the payload settled, then the end of CBLOCK or of the data block. -/
theorem regionsAreClosed : Obligations.RegionsAreClosed := by
  intro s hhost hb hp hshort ob op n raw e stream stored payload hob hend hraw
  have hstep : engineStep s = if s.status.frameCmd then endFrameBlock s.emitLast else endCblock s.emitLast := by
    rw [engineStep_scan hp, scanState, if_neg (Nat.not_le.2 hshort)]
  have hraw' : s.int.ob.toNat + (s.int.blkHi.toNat - s.int.blkLo.toNat) ≤ s.opr.outCap.toNat :=
    (Nat.le_add_right _ 4).trans hraw
  refine ⟨engineStep s, step_of_busy hhost hb, engineStep_kept s, ?_, fun hcmd hob0 hlo hhi => ?_,
    fun hcmd h4 hlen hroom => ?_⟩
  · rw [hstep]
    split_ifs
    · exact endFrameBlock_ht _
    · exact endCblock_ht _
  · have hcap := (payload_length_le hob hend hraw').trans_lt s.opr.outCap.isLt
    have hframe : s.status.frameCmd = false := by simp [Status.frameCmd, hcmd]
    obtain ⟨u, hw, he⟩ := endCblock_emitLast hob hend hraw' (BitVec.eq_of_toNat_eq hob0) hlo hhi
    rw [hstep, hframe, if_neg Bool.false_ne_true, he]
    have hread := outBytes_finish { u with status := { s.status with stored := s.stores } } (w32 s.payload.length) s.opr.inLen
    rw [toNat_w32 (by omega)] at hread
    refine ⟨rfl, ?_, ?_, hread.trans hw.bytes⟩
    · exact congrArg (fun w => w.err) hw.same
    · exact congrArg (fun w => { w.res with outLen := w32 s.payload.length, inPos := s.opr.inLen }) hw.same
  · have hframe : s.status.frameCmd = true := by simp [Status.frameCmd, hcmd]
    obtain ⟨u, hu, hw⟩ := settlePayload_emitLast hob hend hraw'
    obtain ⟨hop, hv⟩ := writeBlockCksum_hasWritten hw h4 hlen hroom
    intro sum block
    rw [hstep, hframe, if_pos rfl, endFrameBlock_eq, hu]
    generalize writeBlockCksum s.payload.length (writeSizeWord (u, s.payload.length, s.stores)) = v at hop hv
    refine ⟨?_, hv.bytes, hv.outside⟩
    have hcount : countRegion v = countRegion (s.withOut v.outb v.int.op) := congrArg countRegion hv.same
    have hcc : s.int.cc ++ (if s.int.cck then raw else []) = if s.int.cck then s.int.cc ++ raw else s.int.cc := by
      split_ifs <;> simp
    rw [hcount, hop, ← hcc]
    rfl

end Sys2Proof.Machine
end

section
namespace Sys2Proof.Machine

/-! ### Replay over the input (R110) -/

theorem inBytes_zero_append (s : State) {a n : Nat} (h : a ≤ n) : s.inBytes 0 a ++ s.inBytes a (n - a) = s.inBytes 0 n := by
  have hsplit := inBytes_append s 0 a (n - a)
  rw [Nat.add_sub_cancel' h, Nat.zero_add] at hsplit
  exact hsplit.symm

theorem replayMatch_inBytes (s : State) {off n p : Nat} (hoff : 1 ≤ off) (hle : off ≤ p)
    (hagree : ∀ i, i < n → s.inByte (p + i) = s.inByte (p - off + i)) :
    replayMatch off n (s.inBytes 0 p) = s.inBytes 0 (p + n) := by
  induction n generalizing p with
  | zero => rfl
  | succ n ih =>
    have hnext : s.inBytes 0 p ++ [(s.inBytes 0 p).getD (p - off) 0#8] = s.inBytes 0 (p + 1) := by
      have hbyte : (s.inBytes 0 p).getD (p - off) 0#8 = s.inByte p := by
        rw [List.getD, State.inBytes_getElem s 0 p (p - off) (by omega), Nat.zero_add]
        exact (hagree 0 (Nat.succ_pos n)).symm
      rw [hbyte, inBytes_append, Nat.zero_add]
      rfl
    rw [replayMatch, State.inBytes_length, hnext, ih (Nat.le_succ_of_le hle) fun i hi => ?_, Nat.succ_add_eq_add_succ]
    have hi' := hagree (i + 1) (by omega)
    have h1 : p + 1 + i = p + (i + 1) := by omega
    have h2 : p + 1 - off + i = p - off + (i + 1) := by omega
    rw [h1, h2, hi']

/-! ### A region being encoded (41_block_encoder.md rule R123) -/

/-- The engine at the head of the loop of `EncodeRegion`, its cursors in order, its output so far within the bound of
R120 on what it has encoded, and room for the rest. -/
structure Region (s : State) : Prop where
  point : s.int.point = .scan
  mfLimit : 9 ≤ s.cfg.mfLimit
  window : s.int.winLo.toNat ≤ s.int.blkLo.toNat
  start : s.int.blkLo.toNat ≤ s.int.anchor.toNat
  pending : s.int.anchor.toNat ≤ s.int.pos.toNat
  pos : s.int.pos.toNat ≤ s.int.blkHi.toNat
  input : s.int.blkHi.toNat ≤ s.opr.inLen.toNat
  mlimit : s.int.mlimit.toNat = s.int.blkHi.toNat - 5
  out : s.int.ob.toNat ≤ s.int.op.toNat
  bound : 255 * (s.int.op.toNat - s.int.ob.toNat) ≤ 256 * (s.int.anchor.toNat - s.int.blkLo.toNat)
  room : s.int.ob.toNat + compressBound (s.int.blkHi.toNat - s.int.blkLo.toNat) ≤ s.opr.outCap.toNat

/-- `u` differs from `s` at most in what the scan moves: the table, `OUT`, the cursors and MF's own registers. -/
def SameRegion (s u : State) : Prop :=
  u = { s with ht := u.ht, outb := u.outb, int := { s.int with
    pos := u.int.pos, anchor := u.int.anchor, op := u.int.op, h := u.int.h, cand := u.int.cand, mlen := u.int.mlen } }

theorem SameRegion.trans {s t u : State} (h : SameRegion s t) (h' : SameRegion t u) : SameRegion s u := by
  unfold SameRegion at h h'
  rw [h] at h'
  exact h'

theorem SameRegion.inBytes {s u : State} (h : SameRegion s u) : u.inBytes = s.inBytes := by
  unfold SameRegion at h
  rw [h]
  rfl

theorem SameRegion.cfg {s u : State} (h : SameRegion s u) : u.cfg = s.cfg := congrArg (fun v => v.cfg) h
theorem SameRegion.opr {s u : State} (h : SameRegion s u) : u.opr = s.opr := congrArg (fun v => v.opr) h
theorem SameRegion.status {s u : State} (h : SameRegion s u) : u.status = s.status := congrArg (fun v => v.status) h
theorem SameRegion.err {s u : State} (h : SameRegion s u) : u.err = s.err := congrArg (fun v => v.err) h
theorem SameRegion.res {s u : State} (h : SameRegion s u) : u.res = s.res := congrArg (fun v => v.res) h
theorem SameRegion.busy {s u : State} (h : SameRegion s u) : u.busy = s.busy := congrArg (fun v => v.busy) h
theorem SameRegion.blkLo {s u : State} (h : SameRegion s u) : u.int.blkLo = s.int.blkLo := congrArg (fun v => v.int.blkLo) h
theorem SameRegion.blkHi {s u : State} (h : SameRegion s u) : u.int.blkHi = s.int.blkHi := congrArg (fun v => v.int.blkHi) h
theorem SameRegion.ob {s u : State} (h : SameRegion s u) : u.int.ob = s.int.ob := congrArg (fun v => v.int.ob) h

theorem SameRegion.outFree {s u : State} (h : SameRegion s u) : u.outFree = s.outFree := by
  unfold SameRegion at h
  rw [h]
  rfl

theorem sameRegion_pass (s : State) (bs : List Byte) (n : Nat) : SameRegion s ((s.lookedUp.emit bs).pastMatch n) := rfl

theorem scanOne_sameRegion (s : State) : SameRegion s (scanOne s) := by
  rcases scanOne_cases s with ⟨-, he⟩ | ⟨off, len, -, he⟩ <;> rw [he]
  · rfl
  · rw [emitMatch_of_extended rfl]
    exact sameRegion_pass ..

@[simp] theorem scanOne_inBytes (s : State) : (scanOne s).inBytes = s.inBytes := (scanOne_sameRegion s).inBytes
@[simp] theorem scanOne_cfg (s : State) : (scanOne s).cfg = s.cfg := (scanOne_sameRegion s).cfg
@[simp] theorem scanOne_opr (s : State) : (scanOne s).opr = s.opr := (scanOne_sameRegion s).opr
@[simp] theorem scanOne_blkLo (s : State) : (scanOne s).int.blkLo = s.int.blkLo := (scanOne_sameRegion s).blkLo
@[simp] theorem scanOne_blkHi (s : State) : (scanOne s).int.blkHi = s.int.blkHi := (scanOne_sameRegion s).blkHi
@[simp] theorem scanOne_ob (s : State) : (scanOne s).int.ob = s.int.ob := (scanOne_sameRegion s).ob
@[simp] theorem scanOne_point (s : State) : (scanOne s).int.point = s.int.point :=
  congrArg (fun u => u.int.point) (scanOne_sameRegion s)
@[simp] theorem scanOne_winLo (s : State) : (scanOne s).int.winLo = s.int.winLo :=
  congrArg (fun u => u.int.winLo) (scanOne_sameRegion s)
@[simp] theorem scanOne_mlimit (s : State) : (scanOne s).int.mlimit = s.int.mlimit :=
  congrArg (fun u => u.int.mlimit) (scanOne_sameRegion s)

/-- A match's encoding is at most a 255th longer than what it stands for (R120). -/
theorem seq_length_le (lit : List Byte) (off : BitVec 16) {mlen : Nat} (h : 4 ≤ mlen) :
    255 * (encode (.seq lit off mlen)).length ≤ 256 * (lit.length + mlen) := by
  rw [encode_length, Instr.size, extLen, extLen, Config.runMask, Config.minMatch]
  split_ifs <;> omega

theorem last_length_le (lit : List Byte) (mc : BitVec 4) :
    255 * (encode (.last lit mc)).length ≤ 256 * lit.length + 495 := by
  rw [encode_length, Instr.size, extLen, Config.runMask]
  split_ifs <;> omega

/-- A step of the scan in a region writes `bs` at `op` and moves `pos` and the anchor, forward and within the region; what it
writes is within the bound of R120 on what it has encoded. -/
structure Advances (s : State) (bs : List Byte) (pos anchor : Nat) : Prop where
  forward : s.int.anchor.toNat ≤ anchor
  pending : anchor ≤ pos
  progress : s.int.pos.toNat < pos
  inside : pos ≤ s.int.blkHi.toNat
  short : 255 * bs.length ≤ 256 * (anchor - s.int.anchor.toNat)
  pos : (scanOne s).int.pos = w32 pos
  anchor : (scanOne s).int.anchor = w32 anchor
  op : (scanOne s).int.op = w32 (s.int.op.toNat + bs.length)
  outb : (scanOne s).outb = s.outb.writeBytes s.int.op.toNat bs

section Advances
variable {s : State} {bs : List Byte} {pos anchor : Nat} (h : Region s) (ha : Advances s bs pos anchor)

include ha in
theorem Advances.pos_toNat : (scanOne s).int.pos.toNat = pos := by
  rw [ha.pos]
  exact toNat_w32 (ha.inside.trans_lt s.int.blkHi.isLt)

include ha in
theorem Advances.anchor_toNat : (scanOne s).int.anchor.toNat = anchor := by
  rw [ha.anchor]
  exact toNat_w32 ((ha.pending.trans ha.inside).trans_lt s.int.blkHi.isLt)

include h ha

/-- What has been written stays within `OUT_CAP` (R88, R122). -/
theorem Advances.room : s.int.op.toNat + bs.length ≤ s.opr.outCap.toNat := by
  have hroom := h.room
  have hbound := h.bound
  have hshort := ha.short
  have hstart := h.start
  have hforward := ha.forward
  have hpending := ha.pending
  have hinside := ha.inside
  rw [compressBound] at hroom
  omega

theorem Advances.op_toNat : (scanOne s).int.op.toNat = s.int.op.toNat + bs.length := by
  rw [ha.op]
  exact toNat_w32 ((ha.room h).trans_lt s.opr.outCap.isLt)

/-- The bytes written stand at `op`, and no others have changed. -/
theorem Advances.outside : SameOutBut s.int.op.toNat s.opr.outCap.toNat s (scanOne s) := by
  intro a hout
  rw [ha.outb]
  exact sameOutBut_outWrite s (Nat.le_refl _) (ha.room h) a hout

omit h in
theorem Advances.written : (scanOne s).outBytes s.int.op.toNat bs.length = bs :=
  (outBytes_of_outb (s := s.outWrite s.int.op.toNat bs) ha.outb (scanOne_sameRegion s).outFree).trans
    (s.outBytes_outWrite _ bs)

theorem Advances.region : Region (scanOne s) := by
  have hstart := h.start
  have hforward := ha.forward
  have hout := h.out
  have hbound := h.bound
  have hshort := ha.short
  constructor <;> simp only [scanOne_point, scanOne_cfg, scanOne_winLo, scanOne_blkLo, scanOne_blkHi, scanOne_opr,
    scanOne_mlimit, scanOne_ob, ha.pos_toNat, ha.anchor_toNat, ha.op_toNat h]
  · exact h.point
  · exact h.mfLimit
  · exact h.window
  · omega
  · exact ha.pending
  · exact ha.inside
  · exact h.input
  · exact h.mlimit
  · omega
  · omega
  · exact h.room

end Advances

/-- A miss: one more pending literal. -/
def Miss (s : State) : Prop := Advances s [] (s.int.pos.toNat + 1) s.int.anchor.toNat

/-- A hit: the scan writes the Sequence `q` of the pending literals and the match found, extended backward; the match repeats
what is before it in the window. -/
structure Hit (s : State) (q : Sequence) : Prop where
  lit : q.lit = s.inBytes s.int.anchor.toNat q.lit.length
  start : s.int.anchor.toNat + q.lit.length ≤ s.int.pos.toNat
  mlen : 4 ≤ q.mlen
  limit : s.int.anchor.toNat + q.lit.length + q.mlen + 5 ≤ s.int.blkHi.toNat
  off_pos : 1 ≤ q.off.toNat
  window : q.off.toNat + s.int.winLo.toNat ≤ s.int.anchor.toNat + q.lit.length
  agree : ∀ i, i < q.mlen → s.inByte (s.int.anchor.toNat + q.lit.length + i)
    = s.inByte (s.int.anchor.toNat + q.lit.length - q.off.toNat + i)
  advances : Advances s (encode (.seq q.lit q.off q.mlen)) (s.int.anchor.toNat + q.lit.length + q.mlen)
    (s.int.anchor.toNat + q.lit.length + q.mlen)

/-- A match found, and the match after its extension backward by `k` bytes, repeat what is before them. -/
theorem agree_extended {s : State} {anchor winLo p off len k : Nat} (hk : ExtendsBack s anchor winLo p (p - off) k)
    (hkp : k ≤ p) (hagree : ∀ i, i < len → s.inByte (p + i) = s.inByte (p - off + i)) {i : Nat} (hi : i < len + k)
    (hoff : off + k ≤ p) : s.inByte (p - k + i) = s.inByte (p - k - off + i) := by
  by_cases hik : i < k
  · have hj := hk.agree (k - 1 - i) (by omega)
    have h1 : p - 1 - (k - 1 - i) = p - k + i := by omega
    have h2 : p - off - 1 - (k - 1 - i) = p - k - off + i := by omega
    rwa [h1, h2] at hj
  · have hj := hagree (i - k) (by omega)
    have h1 : p + (i - k) = p - k + i := by omega
    have h2 : p - off + (i - k) = p - k - off + i := by omega
    rwa [h1, h2] at hj

/-- A step of the scan passes a literal, or writes a Sequence. -/
theorem Region.miss_or_hit {s : State} (h : Region s) (hroom : s.int.pos.toNat + s.cfg.mfLimit ≤ s.int.blkHi.toNat) :
    Miss s ∨ ∃ q, Hit s q := by
  have hmf := h.mfLimit
  have hml := h.mlimit
  have hpa := h.pending
  have hin := h.input
  cases hfound : s.mfLookup s.int.pos.toNat s.int.winLo.toNat s.int.mlimit.toNat with
  | none =>
    have hnext := scanOne_of_miss hfound
    refine .inl ⟨Nat.le_refl _, by omega, by omega, by omega, Nat.zero_le _, ?_, ?_, ?_, ?_⟩ <;> rw [hnext]
    · rfl
    · exact (w32_toNat _).symm
    · exact (w32_toNat _).symm
    · rfl
  | some m =>
    obtain ⟨off, len⟩ := m
    obtain ⟨k, hext, -, -, hnext⟩ := scanOne_of_hit hfound
    obtain ⟨c, -, hc, hoff, hdist, hwindow, hlen, hend, hagree, -⟩ :=
      (lookupIsLongestAcceptedMatch s _ _ _ off len (by omega) (by omega)).1 hfound
    have hpend := hext.pending
    have hwin := hext.window
    have hoff16 : (BitVec.ofNat 16 off).toNat = off := by
      rw [BitVec.toNat_ofNat]
      omega
    have hstart : s.int.anchor.toNat + (s.int.pos.toNat - k - s.int.anchor.toNat) = s.int.pos.toNat - k := by omega
    have hstop : s.int.pos.toNat - k + (len + k) = s.int.pos.toNat + len := by omega
    have hshort := seq_length_le (s.inBytes s.int.anchor.toNat (s.int.pos.toNat - k - s.int.anchor.toNat))
      (BitVec.ofNat 16 off) (show 4 ≤ len + k by omega)
    rw [State.inBytes_length] at hshort
    refine .inr ⟨⟨s.inBytes s.int.anchor.toNat (s.int.pos.toNat - k - s.int.anchor.toNat), BitVec.ofNat 16 off,
      len + k⟩, ?_⟩
    constructor <;> simp only [State.inBytes_length, hoff16, hstart, hstop]
    · omega
    · omega
    · omega
    · exact hoff
    · omega
    · exact fun i hi => agree_extended hext (by omega) hagree hi (by omega)
    · exact ⟨by omega, Nat.le_refl _, by omega, by omega, by omega,
        hnext ▸ rfl, hnext ▸ rfl, hnext ▸ rfl, hnext ▸ rfl⟩

end Sys2Proof.Machine
end

section
namespace Sys2Proof.Machine

/-! ### The whole scan of a region -/

/-- The scan goes from `s` to `u` and writes these Sequences. -/
inductive Scans : State → List Sequence → State → Prop
  | done {s : State} (h : Region s) : Scans s [] s
  | miss {s u : State} {qs : List Sequence} (h : Region s) (hroom : s.int.pos.toNat + s.cfg.mfLimit ≤ s.int.blkHi.toNat)
      (hm : Miss s) (rest : Scans (scanOne s) qs u) : Scans s qs u
  | hit {s u : State} {q : Sequence} {qs : List Sequence} (h : Region s)
      (hroom : s.int.pos.toNat + s.cfg.mfLimit ≤ s.int.blkHi.toNat) (hq : Hit s q) (rest : Scans (scanOne s) qs u) :
      Scans s (q :: qs) u

/-- From a region the scan reaches a position with fewer than `MFLIMIT` bytes left. -/
theorem Region.scans {s : State} (h : Region s) (hb : s.busy = true) : ∃ j qs u, j ≤ s.int.blkHi.toNat - s.int.pos.toNat
    ∧ Scans s qs u ∧ u.int.blkHi.toNat < u.int.pos.toNat + u.cfg.mfLimit
    ∧ ∀ k, runEngine (j + k) s = runEngine k u := by
  induction hn : s.int.blkHi.toNat - s.int.pos.toNat using Nat.strong_induction_on generalizing s with
  | _ n ih =>
    by_cases hroom : s.int.pos.toNat + s.cfg.mfLimit ≤ s.int.blkHi.toNat
    · have hstep : ∀ k, runEngine (k + 1) s = runEngine k (scanOne s) := fun k => by
        rw [runEngine_succ, hb, if_pos rfl, engineStep_scan h.point, scanState, if_pos hroom]
      have hbusy : (scanOne s).busy = true := by
        rw [← hb]
        exact (scanOne_sameRegion s).busy
      have onward : ∀ {bs pos anchor}, Advances s bs pos anchor → ∃ j qs u, j + 1 ≤ n ∧ Scans (scanOne s) qs u
          ∧ u.int.blkHi.toNat < u.int.pos.toNat + u.cfg.mfLimit ∧ ∀ k, runEngine (j + 1 + k) s = runEngine k u := by
        intro bs pos anchor ha
        have hmf := h.mfLimit
        have hprogress := ha.progress
        have hinside := ha.inside
        obtain ⟨j, qs, u, hj, hscans, hend, hrun⟩ :=
          ih (s.int.blkHi.toNat - pos) (by omega) (ha.region h) hbusy (by rw [scanOne_blkHi, ha.pos_toNat])
        refine ⟨j, qs, u, by omega, hscans, hend, fun k => ?_⟩
        rw [Nat.add_right_comm, hstep, hrun]
      rcases h.miss_or_hit hroom with hm | ⟨q, hq⟩
      · obtain ⟨j, qs, u, hj, hscans, hrest⟩ := onward hm
        exact ⟨j + 1, qs, u, hj, .miss h hroom hm hscans, hrest⟩
      · obtain ⟨j, qs, u, hj, hscans, hrest⟩ := onward hq.advances
        exact ⟨j + 1, q :: qs, u, hj, .hit h hroom hq hscans, hrest⟩
    · exact ⟨0, [], s, Nat.zero_le _, .done h, Nat.lt_of_not_le hroom, fun k => by rw [Nat.zero_add]⟩

/-- The output of a Sequence written is the input up to the new anchor (R110). -/
theorem Hit.replay_cons {s : State} {q : Sequence} (hq : Hit s q) (qs : List Sequence) :
    replay (q :: qs) (s.inBytes 0 s.int.anchor.toNat)
      = replay qs (s.inBytes 0 (s.int.anchor.toNat + q.lit.length + q.mlen)) := by
  have hwin := hq.window
  have hlits : s.inBytes 0 s.int.anchor.toNat ++ q.lit = s.inBytes 0 (s.int.anchor.toNat + q.lit.length) := by
    rw [inBytes_append, Nat.zero_add, ← hq.lit]
  rw [replay, hlits, replayMatch_inBytes s hq.off_pos (by omega) hq.agree]

section Scans
variable {s u : State} {qs : List Sequence} (h : Scans s qs u)
include h

theorem Scans.region : Region s ∧ Region u := by
  induction h with
  | done h => exact ⟨h, h⟩
  | miss h _ _ _ ih => exact ⟨h, ih.2⟩
  | hit h _ _ _ ih => exact ⟨h, ih.2⟩

theorem Scans.same : SameRegion s u := by
  induction h with
  | done => rfl
  | miss _ _ _ _ ih => exact (scanOne_sameRegion _).trans ih
  | hit _ _ _ _ ih => exact (scanOne_sameRegion _).trans ih

/-- The scan writes from `op` on and within `OUT_CAP`. -/
theorem Scans.outside : s.int.op.toNat ≤ u.int.op.toNat ∧ SameOutBut s.int.op.toNat s.opr.outCap.toNat s u := by
  induction h with
  | done => exact ⟨Nat.le_refl _, fun _ _ => rfl⟩
  | miss h _ hm _ ih =>
    rw [scanOne_opr, Advances.op_toNat h hm] at ih
    exact ⟨ih.1, (Advances.outside h hm).trans ih.2⟩
  | hit h _ hq _ ih =>
    rw [scanOne_opr, hq.advances.op_toNat h] at ih
    exact ⟨(Nat.le_add_right ..).trans ih.1,
      (hq.advances.outside h).trans (ih.2.mono (Nat.le_add_right ..) (Nat.le_refl _))⟩

/-- What the scan has written is the Sequences' encodings (R63, R87). -/
theorem Scans.written : u.outBytes s.int.op.toNat (u.int.op.toNat - s.int.op.toNat)
    = (qs.map fun q => encode (.seq q.lit q.off q.mlen)).flatten := by
  induction h with
  | done =>
    rw [Nat.sub_self]
    rfl
  | miss h _ hm _ ih => rwa [Advances.op_toNat h hm] at ih
  | @hit s u q qs h _ hq rest ih =>
    obtain ⟨hop, hout⟩ := rest.outside
    rw [hq.advances.op_toNat h] at ih hop hout
    have hlen : u.int.op.toNat - s.int.op.toNat = (encode (.seq q.lit q.off q.mlen)).length
        + (u.int.op.toNat - (s.int.op.toNat + (encode (.seq q.lit q.off q.mlen)).length)) := by omega
    have hfirst : u.outBytes s.int.op.toNat (encode (.seq q.lit q.off q.mlen)).length = encode (.seq q.lit q.off q.mlen) :=
      (outBytes_congr fun i _ hi => hout.outByte rest.same.outFree (.inl hi)).trans hq.advances.written
    rw [hlen, outBytes_append, hfirst, ih, List.map_cons, List.flatten_cons]

/-- The Sequences are legal where they stand: their offsets stay within the window (R72, R124). -/
theorem Scans.legal : legalSeqs (s.int.anchor.toNat - s.int.winLo.toNat) qs = true := by
  induction h with
  | done => rfl
  | miss h _ hm _ ih => rwa [hm.anchor_toNat, scanOne_winLo] at ih
  | @hit s u q qs h _ hq _ ih =>
    have hwin := h.window
    have hstart := h.start
    have hlimit := hq.limit
    have hoff := hq.off_pos
    have hinwin := hq.window
    have hhi := s.int.blkHi.isLt
    have hn : s.int.anchor.toNat + q.lit.length + q.mlen - s.int.winLo.toNat
        = s.int.anchor.toNat - s.int.winLo.toNat + q.lit.length + q.mlen := by omega
    have hne : q.off ≠ 0 := fun h0 => by simp [h0] at hoff
    rw [hq.advances.anchor_toNat, scanOne_winLo, hn] at ih
    simp only [legalSeqs, Instr.wf, Bool.and_eq_true, decide_eq_true_eq]
    exact ⟨⟨⟨⟨⟨by omega, hne⟩, hq.mlen⟩, by omega⟩, by omega⟩, ih⟩

/-- The Sequences replay to the input up to the anchor (R124). -/
theorem Scans.replays : replay qs (s.inBytes 0 s.int.anchor.toNat) = s.inBytes 0 u.int.anchor.toNat := by
  induction h with
  | done => rfl
  | miss h _ hm _ ih => rwa [hm.anchor_toNat, scanOne_inBytes] at ih
  | @hit s u q qs h _ hq _ ih =>
    rw [hq.advances.anchor_toNat, scanOne_inBytes] at ih
    rw [hq.replay_cons, ih]

/-- A match ends at least five bytes before the region's end (R125). -/
theorem Scans.tail (hanchor : qs ≠ [] ∨ s.int.anchor.toNat + 5 ≤ s.int.blkHi.toNat) :
    u.int.anchor.toNat + 5 ≤ s.int.blkHi.toNat := by
  induction h with
  | done => exact hanchor.resolve_left (fun h => h rfl)
  | miss h _ hm _ ih =>
    rw [hm.anchor_toNat, scanOne_blkHi] at ih
    exact ih hanchor
  | @hit s u q qs h _ hq _ ih =>
    rw [hq.advances.anchor_toNat, scanOne_blkHi] at ih
    exact ih (.inr hq.limit)

/-- No match starts later than `MFLIMIT` bytes before the region's end (R125). -/
theorem Scans.starts {pre post : List Sequence} {q : Sequence} (hqs : qs = pre ++ q :: post) :
    (replay pre (s.inBytes 0 s.int.anchor.toNat)).length + q.lit.length + s.cfg.mfLimit ≤ s.int.blkHi.toNat := by
  induction h generalizing pre with
  | done => simp at hqs
  | miss h _ hm _ ih =>
    rw [hm.anchor_toNat, scanOne_blkHi, scanOne_cfg, scanOne_inBytes] at ih
    exact ih hqs
  | @hit s u q' qs h hroom hq _ ih =>
    rw [hq.advances.anchor_toNat, scanOne_blkHi, scanOne_cfg, scanOne_inBytes] at ih
    have hstart := hq.start
    cases pre with
    | nil =>
      obtain ⟨rfl, -⟩ := List.cons.inj hqs
      rw [replay, State.inBytes_length]
      omega
    | cons p pre =>
      obtain ⟨rfl, hqs'⟩ := List.cons.inj hqs
      rw [hq.replay_cons]
      exact ih hqs'

end Scans

end Sys2Proof.Machine
end

section
namespace Sys2Proof.Machine

/-! ### CBLOCK (41_block_encoder.md rules R121 to R128) -/

/-- The LAST of a region has room (R88, R122). -/
theorem Region.last_room {s : State} (h : Region s) :
    s.int.op.toNat + (encode (.last (s.pendingLits s.int.blkHi.toNat) 0#4)).length ≤ s.opr.outCap.toNat := by
  have hlast := last_length_le (s.pendingLits s.int.blkHi.toNat) 0#4
  have hroom := h.room
  have hbound := h.bound
  have hstart := h.start
  have hpending := h.pending
  have hpos := h.pos
  have hout := h.out
  rw [State.pendingLits, State.inBytes_length] at hlast
  rw [compressBound] at hroom
  rw [State.pendingLits]
  omega

theorem Region.raw_room {s : State} (h : Region s) :
    s.int.ob.toNat + (s.int.blkHi.toNat - s.int.blkLo.toNat) ≤ s.opr.outCap.toNat := by
  have hroom := h.room
  rw [compressBound] at hroom
  omega

/-- CBLOCK at the head of its loop: the table cleared, the whole input one region (R121). -/
def cblockStart (s : State) : State := (s.startCmd .cblock).mfClear.openRegion 0 s.opr.inLen.toNat 0 0

theorem cblockStart_blkHi (s : State) : (cblockStart s).int.blkHi = s.opr.inLen := w32_toNat _

theorem region_cblockStart {s : State} (hcfg : s.cfg.wf = true)
    (hroom : compressBound s.opr.inLen.toNat ≤ s.opr.outCap.toNat) : Region (cblockStart s) := by
  have hmf : 9 ≤ s.cfg.mfLimit := by
    simp only [Params.wf, Bool.and_eq_true, decide_eq_true_eq] at hcfg
    obtain ⟨⟨⟨⟨-, -⟩, hmf⟩, -⟩, -⟩ := hcfg
    exact hmf
  have hhi := cblockStart_blkHi s
  have hml : (cblockStart s).int.mlimit.toNat = s.opr.inLen.toNat - 5 := openRegion_mlimit _ _ _ _ s.opr.inLen.isLt
  refine ⟨rfl, hmf, Nat.le_refl _, Nat.le_refl _, Nat.le_refl _, Nat.zero_le _, ?_, ?_, Nat.le_refl _, Nat.le_refl _, ?_⟩
  · rw [hhi]
    exact Nat.le_refl _
  · rw [hhi]
    exact hml
  · rw [hhi]
    exact (Nat.zero_add _).trans_le hroom

/-- What CBLOCK leaves when its region, scanned up to `u`, is closed (R121, R126, R128). -/
structure CblockDone (s u t : State) : Prop where
  last : s.opr.inLen.toNat < u.int.pos.toNat + s.cfg.mfLimit
  status : t.status = { state := .done, stored := u.stores, lastCmd := 0x02#8 }
  err : t.err = .none
  res : t.res = { outLen := w32 u.payload.length, inPos := s.opr.inLen }
  ht : t.ht = u.ht
  room : u.payload.length ≤ s.opr.outCap.toNat
  bytes : t.outBytes 0 u.payload.length = u.payload
  unwritten : Unwritten 0 u.payload.length s t

/-- Closing the region of CBLOCK, scanned up to `u`. -/
theorem cblockDone_of_scans {s u : State} {qs : List Sequence} (hscans : Scans (cblockStart s) qs u)
    (hlast : u.int.blkHi.toNat < u.int.pos.toNat + u.cfg.mfLimit) : CblockDone s u (endCblock u.emitLast) := by
  have hsame := hscans.same
  have hu := hscans.region.2
  have hopr : u.opr = s.opr := hsame.opr
  have hhi : u.int.blkHi = s.opr.inLen := hsame.blkHi.trans (cblockStart_blkHi s)
  have hob : u.int.ob = 0#32 := hsame.ob
  have hlo : u.int.blkLo = 0#32 := hsame.blkLo
  obtain ⟨v, hv, hclose⟩ :=
    endCblock_emitLast hu.out hu.last_room hu.raw_room hob hlo (hhi.trans (congrArg Operands.inLen hopr.symm))
  have hroom := payload_length_le hu.out hu.last_room hu.raw_room
  have hlen : (w32 u.payload.length).toNat = u.payload.length := toNat_w32 (by have := u.opr.outCap.isLt; omega)
  have hout : SameOutBut 0 s.opr.outCap.toNat s v := hscans.outside.2.trans (hopr ▸ hv.outside)
  have hfree : v.outFree = s.outFree := (congrArg (fun w => w.outFree) hv.same).trans hsame.outFree
  have hread := outBytes_finish { v with status := { u.status with stored := u.stores } } (w32 u.payload.length) u.opr.inLen
  rw [hlen] at hread
  rw [hclose]
  refine ⟨?_, ?_, ?_, ?_, ?_, ?_, hread.trans hv.bytes, ?_⟩
  · rw [← hhi]
    exact hsame.cfg ▸ hlast
  · show ({ u.status with state := .done, stored := u.stores } : Status) = _
    rw [hsame.status]
    rfl
  · exact (congrArg (fun w => w.err) hv.same).trans hsame.err
  · have hres : v.res = {} := (congrArg (fun w => w.res) hv.same).trans hsame.res
    show ({ v.res with outLen := w32 u.payload.length, inPos := u.opr.inLen } : Results) = _
    rw [hres, hopr]
  · exact congrArg (fun w => w.ht) hv.same
  · rw [← hopr]
    exact (Nat.le_add_left ..).trans hroom
  · have hun := finish_unwritten (u := { v with status := { u.status with stored := u.stores } })
      (inPos := u.opr.inLen) hout hfree ((congrArg (fun w => w.opr) hv.same).trans hopr)
      (Nat.zero_le (w32 u.payload.length).toNat)
    rwa [hlen] at hun

theorem CblockDone.outLen {s u t : State} (h : CblockDone s u t) : t.res.outLen.toNat = u.payload.length := by
  rw [h.res]
  exact toNat_w32 (h.room.trans_lt s.opr.outCap.isLt)

theorem CblockDone.stored {s u t : State} (h : CblockDone s u t) : t.status.stored = u.stores := by
  rw [h.status]

/-- CBLOCK with room enough scans its region to the end and closes it (R121). -/
theorem exec_cblock {s : State} (hcfg : s.cfg.wf = true) (hb : s.busy = false)
    (hroom : compressBound s.opr.inLen.toNat ≤ s.opr.outCap.toNat) :
    ∃ t qs u, exec .cblock s = .next t ∧ Scans (cblockStart s) qs u ∧ CblockDone s u t := by
  obtain ⟨j, qs, u, hj, hscans, hlast, hrun⟩ := (region_cblockStart hcfg hroom).scans rfl
  have hsame := hscans.same
  refine ⟨endCblock u.emitLast, qs, u, congrArg Host.Outcome.next ?_, hscans, cblockDone_of_scans hscans hlast⟩
  have hfuel : s.fuel = j + (s.fuel - j - 2 + 1) + 1 := by
    have : j ≤ s.opr.inLen.toNat := by rw [cblockStart_blkHi] at hj; omega
    rw [State.fuel]
    omega
  have henter : engineStep (s.startCmd .cblock) = cblockStart s := enterCblock_of_room hroom
  have hend : engineStep u = endCblock u.emitLast := by
    have hframe : u.status.frameCmd = false := by rw [hsame.status]; rfl
    rw [engineStep_scan hscans.region.2.point, scanState, if_neg (Nat.not_le.2 hlast), hframe, if_neg Bool.false_ne_true]
  have hdone : (endCblock u.emitLast).busy = false := by
    rw [State.busy, (cblockDone_of_scans hscans hlast).status]
    rfl
  rw [runCommand, hb, if_neg Bool.false_ne_true, State.runToEnd]
  show runEngine s.fuel (s.startCmd .cblock) = _
  rw [hfuel, runEngine_succ, henter, hrun, runEngine_succ, hend, runEngine_of_not_busy _ hdone, hsame.busy]
  rfl

/-- CBLOCK without room for the worst case fails before it writes a byte (R122). -/
theorem exec_cblock_of_no_room {s : State} (hb : s.busy = false)
    (hroom : s.opr.outCap.toNat < compressBound s.opr.inLen.toNat) :
    exec .cblock s = .next ((s.startCmd .cblock).raiseUntouched .insufficientOutputSpace) :=
  congrArg Host.Outcome.next (runCommand_of_one_step hb (if_pos hroom) rfl)

/-- Settles O16: the space check, then a run whose writes stay within `OUT_CAP`. -/
theorem cblockChecksSpaceFirst : Obligations.CblockChecksSpaceFirst := by
  intro s hcfg hb
  refine ⟨fun hroom => ?_, fun hroom => ?_⟩
  · have hrun := exec_cblock_of_no_room hb hroom
    exact ⟨_, hrun, rfl, rfl, rfl, rfl, fun _ => ⟨rfl, rfl⟩, exec_kept hrun⟩
  · obtain ⟨t, qs, u, hrun, -, hdone⟩ := exec_cblock hcfg hb hroom
    exact ⟨t, hrun, hdone.err, fun a ha => (hdone.unwritten.2 a (.inr ⟨hdone.room.trans ha, ha⟩)).1⟩

/-- The bytes of a region that is stored (R126). -/
theorem payload_of_stores {u : State} (h : u.stores = true) : u.payload = u.rawBlock := if_pos h

theorem payload_of_not_stores {u : State} (h : u.stores = false) : u.payload = u.stream := by
  rw [State.payload, h, if_neg Bool.false_ne_true]

/-- A region in which no match has been found is stored: its LAST is longer than its raw bytes (R126). -/
theorem stores_of_no_match {s : State} (h : s.int.anchor = s.int.blkLo) : s.stores = true := by
  refine decide_eq_true ?_
  rw [stream_length, encode_length, Instr.size, State.pendingLits, State.inBytes_length, h]
  omega

/-- A region with fewer than `MFLIMIT` bytes is not scanned (R128). -/
theorem Scans.of_short {s u : State} {qs : List Sequence} (h : Scans s qs u)
    (hshort : s.int.blkHi.toNat < s.int.pos.toNat + s.cfg.mfLimit) : qs = [] ∧ u = s := by
  cases h with
  | done => exact ⟨rfl, rfl⟩
  | miss _ hroom => omega
  | hit _ hroom => omega

/-- Settles O17: what `CblockDone` says, in the two cases of the stored decision. -/
theorem cblockEndsDone : Obligations.CblockEndsDone := by
  intro s hcfg hb hroom
  obtain ⟨t, qs, u, hrun, hscans, hdone⟩ := exec_cblock hcfg hb hroom
  have hsame := hscans.same
  have hraw : u.rawBlock = s.inBytes 0 s.opr.inLen.toNat := by
    rw [State.rawBlock, hsame.blkLo, hsame.blkHi, cblockStart_blkHi, hsame.inBytes]
    rfl
  have hstored := hdone.stored
  refine ⟨t, hrun, ?_, hdone.err, ?_, fun h => ?_, fun h => ?_, fun h => ?_, exec_kept hrun, ?_⟩
  · rw [hstored, hdone.status]
  · rw [hdone.res]
  · have hpay : u.payload = s.inBytes 0 s.opr.inLen.toNat := by rw [payload_of_stores (hstored ▸ h), hraw]
    have hbytes := hdone.bytes
    rw [hpay, State.inBytes_length] at hbytes
    refine ⟨?_, hbytes⟩
    rw [hdone.res, hpay, State.inBytes_length, w32_toNat]
  · have hlt := hstored ▸ h
    rw [hdone.outLen, payload_of_not_stores hlt]
    rw [State.stores, hsame.blkLo, hsame.blkHi, cblockStart_blkHi, hsame.cfg] at hlt
    have := of_decide_eq_false hlt
    exact Nat.lt_of_not_le this
  · obtain ⟨-, rfl⟩ := hscans.of_short (by rw [cblockStart_blkHi]; exact (Nat.zero_add _).symm ▸ h)
    rw [hstored, stores_of_no_match rfl, hdone.ht]
    exact ⟨rfl, fun _ => rfl⟩
  · rw [hdone.outLen]
    exact hdone.unwritten

/-- The token stream of a scanned region is the block of its Sequences and the pending literals (R63, R123). -/
theorem Scans.stream {s u : State} {qs : List Sequence} (h : Scans s qs u) (hstart : s.int.op = s.int.ob) :
    u.stream = blockBytes qs (u.pendingLits u.int.blkHi.toNat) 0#4 := by
  have hwritten := h.written
  rw [hstart, ← h.same.ob] at hwritten
  rw [State.stream, hwritten]
  rfl

/-- Settles O18: the Sequences of the scan, and the pending literals as the terminal sequence's. -/
theorem cblockEmitsLegalBlock : Obligations.CblockEmitsLegalBlock := by
  intro s t hcfg hb hexec herr hstored
  have hroom : compressBound s.opr.inLen.toNat ≤ s.opr.outCap.toNat := by
    by_contra hno
    rw [exec_cblock_of_no_room hb (Nat.lt_of_not_le hno)] at hexec
    cases hexec
    cases herr
  obtain ⟨t', qs, u, hrun, hscans, hdone⟩ := exec_cblock hcfg hb hroom
  obtain rfl : t' = t := by injection hrun.symm.trans hexec
  have hu := hscans.region.2
  have hpending := hu.pending
  have hpos := hu.pos
  have hhi : u.int.blkHi = s.opr.inLen := hscans.same.blkHi.trans (cblockStart_blkHi s)
  have hlits : (u.pendingLits u.int.blkHi.toNat).length = u.int.blkHi.toNat - u.int.anchor.toNat := u.inBytes_length ..
  have hpay : u.payload = blockBytes qs (u.pendingLits u.int.blkHi.toNat) 0#4 := by
    rw [payload_of_not_stores (hdone.stored ▸ hstored), hscans.stream rfl]
  refine ⟨qs, u.pendingLits u.int.blkHi.toNat, ?_, hscans.legal, ?_, fun hne => ?_, fun pre q post hqs => ?_⟩
  · rw [hdone.outLen, hdone.bytes, hpay]
  · have hreplay : replay qs [] = s.inBytes 0 u.int.anchor.toNat := hscans.replays
    have hin : u.inBytes = s.inBytes := hscans.same.inBytes
    rw [hreplay, State.pendingLits, hin, inBytes_zero_append s (hpending.trans hpos), hhi]
  · have htail := hscans.tail (.inl hne)
    rw [cblockStart_blkHi] at htail
    rw [hlits, hhi]
    omega
  · have hstarts := hscans.starts hqs
    rw [cblockStart_blkHi] at hstarts
    exact hstarts

end Sys2Proof.Machine
end

section
namespace Sys2Proof.Machine

/-! ### Replay over `OUT` (42_block_decoder.md rules R146, R149) -/

theorem w32_toNat_add (a b : Nat) : w32 ((w32 a).toNat + b) = w32 (a + b) := by
  apply BitVec.eq_of_toNat_eq
  rw [BitVec.toNat_ofNat, BitVec.toNat_ofNat, BitVec.toNat_ofNat, Nat.mod_add_mod]

theorem replayMatch_length (off n : Nat) (out : List Byte) : (replayMatch off n out).length = out.length + n := by
  induction n generalizing out with
  | zero => rfl
  | succ n ih =>
    rw [replayMatch, ih, List.length_append, List.length_singleton]
    omega

theorem length_le_replay (qs : List Sequence) (out : List Byte) : out.length ≤ (replay qs out).length := by
  induction qs generalizing out with
  | nil => exact Nat.le_refl _
  | cons q qs ih =>
    refine Nat.le_trans ?_ (ih _)
    rw [replayMatch_length, List.length_append]
    omega

/-- The match copy over a buffer does to the bytes before its end what `replayMatch` does to the list of them (R47). -/
theorem map_copyBack (free : Nat → Byte) {off n op : Nat} (m : Memory) (hoff : 1 ≤ off) (hop : off ≤ op) :
    (List.range' 0 (op + n)).map (outByteOf free (copyBack free off n op m))
      = replayMatch off n ((List.range' 0 op).map (outByteOf free m)) := by
  induction n generalizing op m with
  | zero => rfl
  | succ n ih =>
    have hread : ((List.range' 0 op).map (outByteOf free m)).getD (op - off) 0#8 = outByteOf free m (op - off) := by
      have hlt : op - off < op := by omega
      simp [List.getD, hlt]
    have hnext : (List.range' 0 (op + 1)).map (outByteOf free (m.write op (outByteOf free m (op - off))))
        = (List.range' 0 op).map (outByteOf free m) ++ [outByteOf free m (op - off)] := by
      rw [← List.range'_append_1, List.map_append]
      congr 1
      · refine List.map_congr_left fun i hi => ?_
        rw [outByteOf_write, if_neg]
        have := (List.mem_range'_1.1 hi).2
        omega
      · simp [outByteOf_write]
    rw [copyBack, replayMatch, List.length_map, List.length_range', hread, ← hnext, ← ih _ (Nat.le_succ_of_le hop),
      Nat.succ_add_eq_add_succ]

/-! ### A token stream being decoded (42_block_decoder.md rule R143) -/

theorem Room.over {n m : Nat} {s : State} (h : Room n s) (hm : m ≤ n) : s.int.over m = none := by
  obtain ⟨hblk, -, hbuf⟩ := h
  rcases s.int.over_cases m with ⟨he, -⟩ | ⟨-, hlt⟩ | ⟨-, -, b, hb, hlt⟩
  · exact he
  · omega
  · have := hbuf b hb
    omega

/-- `u` differs from `s` at most in what the decoder moves within a token stream. -/
def SameStream (s u : State) : Prop :=
  u = { s with outb := u.outb, int := { s.int with
    ip := u.int.ip, op := u.int.op, t := u.int.t, litLen := u.int.litLen, matchLen := u.int.matchLen, off := u.int.off } }

theorem SameStream.trans {s t u : State} (h : SameStream s t) (h' : SameStream t u) : SameStream s u := by
  unfold SameStream at h h'
  rw [h] at h'
  exact h'

theorem SameStream.inBytes {s u : State} (h : SameStream s u) : u.inBytes = s.inBytes := by
  unfold SameStream at h
  rw [h]
  rfl

theorem SameStream.outFree {s u : State} (h : SameStream s u) : u.outFree = s.outFree := by
  unfold SameStream at h
  rw [h]
  rfl

theorem SameStream.inEnd {s u : State} (h : SameStream s u) : u.int.inEnd = s.int.inEnd := congrArg (fun v => v.int.inEnd) h

/-- The decoder has gone from `s` to `u`: `rest` is left of the token stream, and the output so far, of which it has
written the part from the `op` of `s` on, is `out`. -/
structure Decodes (s u : State) (out rest : List Byte) : Prop where
  same : SameStream s u
  left : u.fetchBytes .token = rest
  ip : u.int.ip.toNat + rest.length = u.int.inEnd.toNat
  op : u.int.op.toNat = out.length
  output : u.outBytes 0 out.length = out
  outside : SameOutBut s.int.op.toNat out.length s u

theorem Decodes.trans {s t u : State} {out out' rest rest' : List Byte} (h : Decodes s t out rest)
    (h' : Decodes t u out' rest') (hle : s.int.op.toNat ≤ out.length) (hle' : out.length ≤ out'.length) :
    Decodes s u out' rest' where
  same := h.same.trans h'.same
  left := h'.left
  ip := h'.ip
  op := h'.op
  output := h'.output
  outside := (h.outside.mono (Nat.le_refl _) hle').trans (h'.outside.mono (h.op ▸ hle) (Nat.le_refl _))

/-- The state after the literals of a LAST have been copied (R146). -/
def lastDone (lit : List Byte) (mc : BitVec 4) (s : State) : State :=
  (s.atLits (BitVec.ofNat 8 (16 * lenCode lit.length + mc.toNat)) lit.length).copyLits lit

theorem readElement_last {s : State} {lit : List Byte} {mc : BitVec 4} (hwf : (Instr.last lit mc).wf = true)
    (hbytes : s.fetchBytes .token = encode (.last lit mc)) (hroom : Room (s.int.op.toNat + lit.length) s) :
    readElement .token s = terminalState (lastDone lit mc s) := by
  have hd : decode .token (s.fetchBytes .token) = .ok (.last lit mc) := by
    rw [hbytes]
    exact decode_encode_last lit mc hwf
  rw [readElement, hd]
  show lastState lit mc s = _
  rw [lastState, State.litStep, hroom.over (Nat.le_refl _)]
  rfl

theorem off_ne_zero_of_wf {lit : List Byte} {off : BitVec 16} {mlen : Nat} (h : (Instr.seq lit off mlen).wf = true) :
    off ≠ 0 := by
  simp only [Instr.wf, Bool.and_eq_true, decide_eq_true_eq] at h
  obtain ⟨⟨⟨-, hne⟩, -⟩, -⟩ := h
  exact hne

theorem readElement_seq {s : State} {q : Sequence} {rest : List Byte}
    (hwf : (Instr.seq q.lit q.off q.mlen).wf = true)
    (hbytes : s.fetchBytes .token = encode (.seq q.lit q.off q.mlen) ++ rest)
    (hoff : q.off.toNat ≤ s.int.op.toNat + q.lit.length - s.int.histLo.toNat)
    (hroom : Room (s.int.op.toNat + q.lit.length + q.mlen) s) :
    readElement .token s = seqDone q.lit q.off q.mlen s := by
  have hd : decode .token (s.fetchBytes .token) = .ok (.seq q.lit q.off q.mlen) := by
    rw [hbytes]
    exact decode_encode_seq q.lit q.off q.mlen rest hwf
  have hop : (w32 (s.int.op.toNat + q.lit.length)).toNat = s.int.op.toNat + q.lit.length :=
    toNat_w32 (by have := hroom.2.1; have := s.opr.outCap.isLt; omega)
  have hne := off_ne_zero_of_wf hwf
  have hlit : s.litStep (tokenByte q.lit.length (q.mlen - Config.minMatch)) q.lit
      = .ok ((s.atLits (tokenByte q.lit.length (q.mlen - Config.minMatch)) q.lit.length).copyLits q.lit) := by
    rw [State.litStep, hroom.over (Nat.le_add_right ..)]
  set s1 := (s.atLits (tokenByte q.lit.length (q.mlen - Config.minMatch)) q.lit.length).copyLits q.lit with hs1
  have hoffStep : s1.offStep q.off = .ok (s1.atOff q.off) := by
    refine if_neg (not_or.2 ⟨hne, Nat.not_lt.2 ?_⟩)
    show q.off.toNat ≤ (w32 (s.int.op.toNat + q.lit.length)).toNat - s.int.histLo.toNat
    rw [hop]
    exact hoff
  have hover : (s1.atOff q.off).int.over ((s1.atOff q.off).int.op.toNat + q.mlen) = none := by
    show s.int.over ((w32 (s.int.op.toNat + q.lit.length)).toNat + q.mlen) = none
    rw [hop]
    exact hroom.over (Nat.le_refl _)
  rw [readElement, hd]
  show stateOf (s.litStep _ q.lit >>= fun v => v.offStep q.off >>= fun v => v.matchStep q.mlen) = _
  rw [hlit]
  show stateOf (s1.offStep q.off >>= fun v => v.matchStep q.mlen) = _
  rw [hoffStep]
  show stateOf ((s1.atOff q.off).matchStep q.mlen) = _
  rw [State.matchStep, hover]
  rfl

/-- Where the cursors stand after a SEQ (R144 to R149). -/
theorem seqDone_cursors (lit : List Byte) (off : BitVec 16) (mlen : Nat) (s : State) :
    (seqDone lit off mlen s).int.ip = w32 (s.int.ip.toNat + (Instr.seq lit off mlen).size)
      ∧ (seqDone lit off mlen s).int.op = w32 (s.int.op.toNat + lit.length + mlen) := by
  simp only [seqDone, State.copyMatch_int, State.atMatch_int, State.atOff_int, State.copyLits_int, State.atLits_int,
    w32_toNat_add, Instr.size]
  exact ⟨congrArg w32 (by omega), trivial⟩

/-- What is left of a token stream behind its first `n` bytes. -/
theorem fetchBytes_drop {s u : State} {bs rest : List Byte} (hsame : SameStream s u)
    (hip : u.int.ip.toNat = s.int.ip.toNat + bs.length) (hfit : s.int.ip.toNat + bs.length ≤ s.int.inEnd.toNat)
    (hbytes : s.fetchBytes .token = bs ++ rest) : u.fetchBytes .token = rest := by
  have hlen : s.int.inEnd.toNat - s.int.ip.toNat = bs.length + (u.int.inEnd.toNat - u.int.ip.toNat) := by
    rw [hsame.inEnd]
    omega
  have hsplit : s.inBytes s.int.ip.toNat (s.int.inEnd.toNat - s.int.ip.toNat) = bs ++ rest := hbytes
  rw [hlen, inBytes_append, ← hip, ← hsame.inBytes] at hsplit
  exact (List.append_inj hsplit (State.inBytes_length ..)).2

/-- The literals written behind the output so far. -/
theorem outBytes_writeLits (s : State) (lit : List Byte) :
    (s.outWrite s.int.op.toNat lit).outBytes 0 (s.int.op.toNat + lit.length) = s.outBytes 0 s.int.op.toNat ++ lit :=
  outBytes_outWrite_append s lit (Nat.zero_le _)

theorem sameStream_literals (t : Byte) (lit : List Byte) (s : State) :
    SameStream s ((s.atLits t lit.length).copyLits lit) := rfl

theorem sameStream_match (off : BitVec 16) (mlen : Nat) (s : State) :
    SameStream s (((s.atOff off).atMatch mlen).copyMatch mlen) := rfl

theorem seqDone_same (lit : List Byte) (off : BitVec 16) (mlen : Nat) (s : State) : SameStream s (seqDone lit off mlen s) :=
  (sameStream_literals ..).trans (sameStream_match off mlen _)

theorem seqDone_outb (lit : List Byte) (off : BitVec 16) (mlen : Nat) (s : State) : (seqDone lit off mlen s).outb
    = copyBack s.outFree off.toNat mlen (w32 (s.int.op.toNat + lit.length)).toNat (s.outb.writeBytes s.int.op.toNat lit) :=
  rfl

theorem lastDone_same (lit : List Byte) (mc : BitVec 4) (s : State) : SameStream s (lastDone lit mc s) :=
  sameStream_literals ..

theorem lastDone_op (lit : List Byte) (mc : BitVec 4) (s : State) :
    (lastDone lit mc s).int.op = w32 (s.int.op.toNat + lit.length) := rfl

theorem lastDone_outb (lit : List Byte) (mc : BitVec 4) (s : State) :
    (lastDone lit mc s).outb = s.outb.writeBytes s.int.op.toNat lit := rfl

theorem outBytes_eq_map (s : State) (a n : Nat) :
    s.outBytes a n = (List.range' a n).map (outByteOf s.outFree s.outb) := rfl

/-- A SEQ at the head of the token stream is replayed over the output so far (R143 steps 1 to 7). -/
theorem decodes_seq {s : State} {q : Sequence} {rest : List Byte}
    (hbytes : s.fetchBytes .token = encode (.seq q.lit q.off q.mlen) ++ rest)
    (hip : s.int.ip.toNat + (encode (.seq q.lit q.off q.mlen) ++ rest).length = s.int.inEnd.toNat)
    (hpos : 1 ≤ q.off.toNat) (hoff : q.off.toNat ≤ s.int.op.toNat + q.lit.length)
    (hroom : s.int.op.toNat + q.lit.length + q.mlen ≤ s.opr.outCap.toNat) :
    Decodes s (seqDone q.lit q.off q.mlen s) (replayMatch q.off.toNat q.mlen (s.outBytes 0 s.int.op.toNat ++ q.lit))
      rest := by
  obtain ⟨hipw, hopw⟩ := seqDone_cursors q.lit q.off q.mlen s
  have hcap := s.opr.outCap.isLt
  have hin := s.int.inEnd.isLt
  have hlen : (replayMatch q.off.toNat q.mlen (s.outBytes 0 s.int.op.toNat ++ q.lit)).length
      = s.int.op.toNat + q.lit.length + q.mlen := by
    rw [replayMatch_length, List.length_append, State.outBytes_length]
  have hlits : (w32 (s.int.op.toNat + q.lit.length)).toNat = s.int.op.toNat + q.lit.length := toNat_w32 (by omega)
  rw [List.length_append, ← Nat.add_assoc] at hip
  have hip' : (seqDone q.lit q.off q.mlen s).int.ip.toNat
      = s.int.ip.toNat + (encode (.seq q.lit q.off q.mlen)).length := by
    rw [hipw, ← encode_length]
    exact toNat_w32 (by omega)
  have hsame := seqDone_same q.lit q.off q.mlen s
  refine ⟨hsame, fetchBytes_drop hsame hip' (by omega) hbytes, hip' ▸ hip, ?_, ?_, ?_⟩
  · rw [hopw, hlen]
    exact toNat_w32 (by omega)
  · rw [hlen, ← outBytes_writeLits, outBytes_eq_map, hsame.outFree, seqDone_outb, hlits, map_copyBack _ _ hpos hoff]
    rfl
  · intro a ha
    rw [seqDone_outb, hlits, copyBack_read_outside _ _ _ _ _ (by omega), Memory.read_writeBytes_outside _ (by omega)]

/-- A LAST that is the rest of the token stream ends the output with its literals (R143 steps 1 to 3). -/
theorem decodes_last {s : State} {lit : List Byte} {mc : BitVec 4}
    (hbytes : s.fetchBytes .token = encode (.last lit mc))
    (hip : s.int.ip.toNat + (encode (.last lit mc)).length = s.int.inEnd.toNat)
    (hroom : s.int.op.toNat + lit.length ≤ s.opr.outCap.toNat) :
    Decodes s (lastDone lit mc s) (s.outBytes 0 s.int.op.toNat ++ lit) [] := by
  have hcap := s.opr.outCap.isLt
  have hin := s.int.inEnd.isLt
  have hlen : (s.outBytes 0 s.int.op.toNat ++ lit).length = s.int.op.toNat + lit.length := by
    rw [List.length_append, State.outBytes_length]
  have hipw : (lastDone lit mc s).int.ip = w32 (s.int.ip.toNat + (encode (.last lit mc)).length) := by
    rw [encode_length, Instr.size, ← Nat.add_assoc]
    exact w32_toNat_add ..
  have hip' : (lastDone lit mc s).int.ip.toNat = s.int.ip.toNat + (encode (.last lit mc)).length := by
    rw [hipw]
    exact toNat_w32 (by omega)
  have hsame := lastDone_same lit mc s
  refine ⟨hsame, fetchBytes_drop hsame hip' hip.le (by rw [hbytes, List.append_nil]), hip' ▸ hip, ?_, ?_, ?_⟩
  · rw [hlen, lastDone_op]
    exact toNat_w32 (by omega)
  · rw [hlen, ← outBytes_writeLits]
    exact outBytes_of_outb (lastDone_outb lit mc s) hsame.outFree
  · rw [hlen]
    intro a ha
    rw [lastDone_outb, Memory.read_writeBytes_outside _ ha]

theorem Room.mono {n m : Nat} {s : State} (h : Room n s) (hm : m ≤ n) : Room m s :=
  ⟨hm.trans h.1, hm.trans h.2.1, fun b hb => hm.trans (h.2.2 b hb)⟩

theorem SameStream.room {s u : State} (h : SameStream s u) {n : Nat} (hn : Room n s) : Room n u := by
  unfold SameStream at h
  rw [h]
  exact hn

theorem engineStep_tokens {s : State} (hp : s.int.point = .tokens) : engineStep s = readElement .token s := by
  rw [engineStep, hp]

/-- The Sequences at the head of a token stream are replayed, one step of the engine each (R143). -/
theorem decodes_seqs {qs : List Sequence} {rest : List Byte} {s : State} (hp : s.int.point = .tokens) (hb : s.busy = true)
    (hbytes : s.fetchBytes .token = (qs.map fun q => encode (.seq q.lit q.off q.mlen)).flatten ++ rest)
    (hip : s.int.ip.toNat + (s.fetchBytes .token).length = s.int.inEnd.toNat)
    (hhist : s.int.histLo.toNat ≤ s.int.op.toNat)
    (hlegal : legalSeqs (s.int.op.toNat - s.int.histLo.toNat) qs = true)
    (hroom : Room (replay qs (s.outBytes 0 s.int.op.toNat)).length s) :
    ∃ u, Decodes s u (replay qs (s.outBytes 0 s.int.op.toNat)) rest
      ∧ ∀ k, runEngine (qs.length + k) s = runEngine k u := by
  induction qs generalizing s with
  | nil =>
    have hrest : s.fetchBytes .token = rest := hbytes
    have hlen := s.outBytes_length 0 s.int.op.toNat
    exact ⟨s, ⟨rfl, hrest, hrest ▸ hip, hlen.symm, by rw [replay, hlen], fun _ _ => rfl⟩,
      fun k => by rw [List.length_nil, Nat.zero_add]⟩
  | cons q qs ih =>
    rw [List.map_cons, List.flatten_cons, List.append_assoc] at hbytes
    rw [hbytes] at hip
    rw [legalSeqs, Bool.and_eq_true, Bool.and_eq_true, decide_eq_true_eq] at hlegal
    obtain ⟨⟨hwf, hoff⟩, hlegal⟩ := hlegal
    have hpos : 1 ≤ q.off.toNat :=
      Nat.one_le_iff_ne_zero.2 fun h0 => off_ne_zero_of_wf hwf (BitVec.eq_of_toNat_eq h0)
    have hlen : (replayMatch q.off.toNat q.mlen (s.outBytes 0 s.int.op.toNat ++ q.lit)).length
        = s.int.op.toNat + q.lit.length + q.mlen := by
      rw [replayMatch_length, List.length_append, State.outBytes_length]
    have hroomq : Room (s.int.op.toNat + q.lit.length + q.mlen) s :=
      hroom.mono (hlen.symm.le.trans (length_le_replay qs _))
    have hread := readElement_seq hwf hbytes (by omega) hroomq
    have hdec := decodes_seq hbytes hip hpos (by omega) hroomq.2.1
    set v := seqDone q.lit q.off q.mlen s
    have hhist' : v.int.histLo = s.int.histLo := congrArg (fun w => w.int.histLo) hdec.same
    have hop := hdec.op
    rw [hlen] at hop
    have hout := hdec.output
    rw [← hdec.op] at hout
    obtain ⟨u, hu, hrun⟩ := ih (s := v) ((congrArg (fun w => w.int.point) hdec.same).trans hp)
      ((congrArg (fun w => w.busy) hdec.same).trans hb) hdec.left (hdec.left ▸ hdec.ip) (by rw [hhist', hop]; omega)
      (by
        have hn : v.int.op.toNat - v.int.histLo.toNat
            = s.int.op.toNat - s.int.histLo.toNat + q.lit.length + q.mlen := by rw [hhist', hop]; omega
        rw [hn]
        exact hlegal)
      (by rw [hout]; exact hdec.same.room hroom)
    rw [hout] at hu
    refine ⟨u, hdec.trans hu (by rw [hlen]; omega) (length_le_replay ..), fun k => ?_⟩
    rw [List.length_cons, Nat.add_right_comm, runEngine_succ, hb, if_pos rfl, engineStep_tokens hp, hread, hrun]

/-! ### DBLOCK on a legal block (R140, R147) -/

/-- DBLOCK at the head of its token loop (R140). -/
def dblockStart (s : State) : State :=
  { s.startCmd .dblock with
    int :=
      { s.int with
        point := .tokens, ip := 0#32, inEnd := s.opr.inLen, op := 0#32, histLo := 0#32
        limBlk := s.opr.expLen.setWidth 33, limBuf := none, exactMode := true } }

theorem enterDblock_of_room {s : State} (h : s.opr.expLen.toNat ≤ s.opr.outCap.toNat) :
    enterDblock (s.startCmd .dblock) = dblockStart s :=
  if_neg (Nat.not_lt.2 h)

/-- A block has a byte for each of its Sequences at least. -/
theorem length_le_blockBytes (qs : List Sequence) (lit : List Byte) (mc : BitVec 4) :
    qs.length ≤ (blockBytes qs lit mc).length := by
  rw [blockBytes, List.length_append]
  refine Nat.le_trans ?_ (Nat.le_add_right ..)
  induction qs with
  | nil => exact Nat.le_refl 0
  | cons q qs ih =>
    have hpos : 0 < (encode (.seq q.lit q.off q.mlen)).length := (encode_length _).symm ▸ (Laws.EncodingSize.seq ..).2
    rw [List.map_cons, List.flatten_cons, List.length_append, List.length_cons]
    omega

/-- The terminal test of DBLOCK succeeds at the expected length (R147). -/
theorem terminalState_of_complete {s : State} (hexact : s.int.exactMode = true)
    (hop : s.int.op.toNat = s.int.limBlk.toNat) : terminalState s = s.finish s.int.op s.int.ip := by
  rw [terminalState, if_pos hexact, if_neg (not_not.2 hop)]

/-- DBLOCK on a block of legal Sequences whose replay is as long as expected decodes it to its end, and ends Done
(R140, R147). -/
theorem exec_dblock {s : State} {qs : List Sequence} {lit : List Byte} {mc : BitVec 4} (hb : s.busy = false)
    (hin : HasInput s (blockBytes qs lit mc)) (hlegal : legalSeqs 0 qs = true)
    (hlen : (replay qs [] ++ lit).length = s.opr.expLen.toNat) (hcap : s.opr.expLen.toNat ≤ s.opr.outCap.toNat) :
    ∃ u, Decodes (dblockStart s) u (replay qs [] ++ lit) []
      ∧ exec .dblock s = .next (u.finish s.opr.expLen s.opr.inLen) := by
  obtain ⟨hsize, hbytes⟩ := hin
  rw [List.length_append] at hlen
  have hexp := s.opr.expLen.isLt
  have hlim : (dblockStart s).int.limBlk.toNat = s.opr.expLen.toNat :=
    (BitVec.toNat_setWidth ..).trans (Nat.mod_eq_of_lt (by omega))
  have hroom : Room s.opr.expLen.toNat (dblockStart s) := ⟨hlim.ge, hcap, nofun⟩
  have hfetch : (dblockStart s).fetchBytes .token
      = (qs.map fun q => encode (.seq q.lit q.off q.mlen)).flatten ++ encode (.last lit mc) := by
    rw [hsize] at hbytes
    exact hbytes
  have hip : (dblockStart s).int.ip.toNat + ((dblockStart s).fetchBytes .token).length
      = (dblockStart s).int.inEnd.toNat := (Nat.zero_add _).trans (State.inBytes_length ..)
  obtain ⟨u, hu, hrun⟩ := decodes_seqs rfl rfl hfetch hip (Nat.le_refl _) hlegal
    (hroom.mono ((Nat.le_add_right ..).trans hlen.le))
  have hout : (dblockStart s).outBytes 0 (dblockStart s).int.op.toNat = [] := rfl
  rw [hout] at hu
  have hop : u.int.op.toNat + lit.length = s.opr.expLen.toNat := hu.op ▸ hlen
  have hroomu : Room (u.int.op.toNat + lit.length) u := hop ▸ hu.same.room hroom
  have hread := readElement_last (by simp only [Instr.wf, decide_eq_true_eq]; omega) hu.left hroomu
  have hlast := decodes_last hu.left hu.ip hroomu.2.1
  rw [hu.op, hu.output] at hlast
  have hv := hu.trans hlast (Nat.zero_le _) (by rw [List.length_append]; exact Nat.le_add_right ..)
  refine ⟨lastDone lit mc u, hv, congrArg Host.Outcome.next ?_⟩
  have hvop : (lastDone lit mc u).int.op = s.opr.expLen :=
    BitVec.eq_of_toNat_eq (hv.op.trans ((List.length_append ..).trans hlen))
  have hvip : (lastDone lit mc u).int.ip = s.opr.inLen :=
    BitVec.eq_of_toNat_eq (hv.ip.trans (congrArg BitVec.toNat hv.same.inEnd))
  have hend : terminalState (lastDone lit mc u) = (lastDone lit mc u).finish s.opr.expLen s.opr.inLen := by
    rw [terminalState_of_complete, hvop, hvip]
    · exact congrArg (fun w => w.int.exactMode) hv.same
    · rw [hvop, ← hlim]
      exact congrArg (fun w => w.int.limBlk.toNat) hv.same.symm
  have hfuel : s.fuel = qs.length + (s.fuel - qs.length - 2 + 1) + 1 := by
    have := length_le_blockBytes qs lit mc
    rw [State.fuel]
    omega
  have hpoint : u.int.point = .tokens := congrArg (fun w => w.int.point) hu.same
  have hbusy : u.busy = true := congrArg (fun w => w.busy) hu.same
  have henter : engineStep (s.startCmd .dblock) = dblockStart s := enterDblock_of_room hcap
  rw [runCommand, hb, if_neg Bool.false_ne_true, State.runToEnd]
  show runEngine s.fuel (s.startCmd .dblock) = _
  rw [hfuel, runEngine_succ, henter, hrun, runEngine_succ, hbusy, engineStep_tokens hpoint, hread, hend,
    runEngine_of_not_busy _ rfl]
  rfl

/-- Settles O19: CBLOCK emits a legal block, and DBLOCK decodes every legal block. -/
theorem blockRoundTrip : Obligations.BlockRoundTrip := by
  intro s t u hcfg hb hexec herr hstored hbu hin hexp hcap
  obtain ⟨qs, lit, hbytes, hlegal, hreplay, -, -⟩ := cblockEmitsLegalBlock s t hcfg hb hexec herr hstored
  rw [hbytes] at hin
  have hlen : (replay qs [] ++ lit).length = u.opr.expLen.toNat := by rw [hreplay, State.inBytes_length, hexp]
  obtain ⟨v, hv, hrun⟩ := exec_dblock hbu hin hlegal hlen hcap
  refine ⟨_, hrun, rfl, ?_, hexp, ?_⟩
  · exact congrArg (fun w => w.err) hv.same
  · have hout := hv.output
    rw [hlen, hreplay] at hout
    rw [← hexp] at hout ⊢
    exact (outBytes_finish v u.opr.expLen u.opr.inLen).trans hout

end Sys2Proof.Machine
end

section
namespace Sys2Proof.Machine

/-! ### How a command ends in a token stream (42_block_decoder.md rule R142; 60_exceptions.md rule R205) -/

/-- `STATUS` at error entry (R205 steps 4, 5). -/
theorem Status.failed_eq (st : Status) : st.failed = errorStatus st := by
  by_cases h : st.lastCmd = 0x04#8 ∨ st.lastCmd = 0x05#8
  · have hf : st.frameCmd = true := by simpa [Status.frameCmd] using h
    rw [Status.failed, if_pos hf, errorStatus, if_pos h]
  · have hf : ¬ st.frameCmd = true := by simpa [Status.frameCmd] using h
    rw [Status.failed, if_neg hf, errorStatus, if_neg h]

/-- The end of a command, Done or in an error at its cursors, leaves its output readable (R29). -/
theorem outBytes_scratchOut {u v : State} {a n : Nat} (houtb : v.outb = u.outb) (hfree : v.outFree = u.outFree)
    (hlen : v.res.outLen = u.int.op) (h : a + n ≤ u.int.op.toNat) : v.scratchOut.outBytes a n = u.outBytes a n := by
  rw [← outBytes_of_outb houtb hfree]
  refine outBytes_congr fun i _ hi => ?_
  rcases v.freeOut_cases v.res.outLen.toNat v.opr.outCap.toNat i with ⟨hle, -, -⟩ | ⟨-, -, hbyte⟩
  · rw [hlen] at hle
    omega
  · exact hbyte

theorem outBytes_raiseAtCursors (e : ErrCode) {u : State} {a n : Nat} (h : a + n ≤ u.int.op.toNat) :
    (u.raiseAtCursors e).outBytes a n = u.outBytes a n :=
  outBytes_scratchOut rfl rfl rfl h

theorem outBytes_finish_at_cursors {u : State} {a n : Nat} (h : a + n ≤ u.int.op.toNat) :
    (u.finish u.int.op u.int.ip).outBytes a n = u.outBytes a n :=
  outBytes_scratchOut rfl rfl rfl h

/-- A command that has written nothing outside its output has, after its end, changed no byte outside it, but that those
up to `OUT_CAP` have lost their content (R29). -/
theorem scratchOut_unwritten {s v : State} {lo : Nat} (hout : SameOutBut lo v.res.outLen.toNat s v)
    (hfree : v.outFree = s.outFree) (hopr : v.opr = s.opr) (hlo : lo ≤ v.res.outLen.toNat) :
    Unwritten lo v.res.outLen.toNat s v.scratchOut := by
  have hcases := v.freeOut_cases v.res.outLen.toNat v.opr.outCap.toNat
  refine ⟨fun a ha => ?_, fun a ha => ?_⟩
  · rcases hcases a with ⟨-, -, hnone⟩ | ⟨-, hread, -⟩
    · exact .inr hnone
    · exact .inl (Eq.trans hread (hout a ha))
  · rcases hcases a with ⟨hle, hlt, -⟩ | ⟨-, hread, hbyte⟩
    · rw [hopr] at hlt
      omega
    · have ha' : a < lo ∨ v.res.outLen.toNat ≤ a := by omega
      exact ⟨Eq.trans hread (hout a ha'), Eq.trans hbyte (hout.outByte hfree ha')⟩

section Ends
variable {s u : State} {lo hi inPos : Nat} (hsame : SameStream s u) (hop : u.int.op.toNat = hi)
  (hip : u.int.ip = w32 inPos) (hlo : lo ≤ hi) (hout : SameOutBut lo hi s u)
include hsame hop hip hlo hout

/-- What the end of a command, Done or in an error, makes of a state in which the decoder has moved. -/
theorem SameStream.ended_of {v : State} (hv : v = { u with
    status := v.status, err := v.err, res := { u.res with outLen := u.int.op, inPos := u.int.ip }, int := v.int
    fresh := v.fresh }) : Ended v.status v.err s.res lo hi inPos s v.scratchOut := by
  unfold SameStream at hsame
  have hlen : v.res.outLen.toNat = hi := by rw [hv]; exact hop
  have hun := scratchOut_unwritten (s := s) (v := v) (lo := lo) (by rw [hlen, hv]; exact hout) (by rw [hv, hsame]; rfl)
    (by rw [hv, hsame]) (hlen ▸ hlo)
  rw [hlen] at hun
  refine ⟨rfl, rfl, ?_, ?_, ?_, hun⟩
  · show v.res = _
    rw [hv, ← hop, w32_toNat, ← hip, hsame]
  · show v.ht = _
    rw [hv, hsame]
  · rw [hv, hsame]
    exact ⟨⟨rfl, rfl⟩, fun _ => rfl, rfl, rfl, rfl⟩

/-- The decoder raises an error at its cursors (R205). -/
theorem SameStream.raised (e : ErrCode) : Raised e s.res lo hi inPos s (u.raiseAtCursors e) := by
  have hst : s.status.failed = errorStatus s.status := s.status.failed_eq
  have hend := hsame.ended_of hop hip hlo hout (v := u.raise e u.int.op u.int.ip) rfl
  have hstatus : u.status = s.status := congrArg (fun w => w.status) hsame
  rw [Raised, ← hst, ← hstatus]
  exact hend

/-- The decoder ends the command without error at its cursors (R18, R29). -/
theorem SameStream.finished : Ended { s.status with state := .done } s.err s.res lo hi inPos s
    (u.finish u.int.op u.int.ip) := by
  have hstatus : u.status = s.status := congrArg (fun w => w.status) hsame
  have herr : u.err = s.err := congrArg (fun w => w.err) hsame
  rw [← hstatus, ← herr]
  exact hsame.ended_of hop hip hlo hout (v := { u with status := { u.status with state := .done }, res :=
    { u.res with outLen := u.int.op, inPos := u.int.ip } }.release) rfl

end Ends

/-! ### DBLOCK on a legal block, to its end -/

/-- Settles O23: `exec_dblock`, and what its end leaves. -/
theorem dblockDecodesLegalBlock : Obligations.DblockDecodesLegalBlock := by
  intro s qs lit mc hb hin hlegal hlen hcap
  obtain ⟨u, hu, hrun⟩ := exec_dblock hb hin hlegal hlen hcap
  have hop : u.int.op = s.opr.expLen := BitVec.eq_of_toNat_eq (hu.op.trans hlen)
  have hip : u.int.ip = s.opr.inLen := BitVec.eq_of_toNat_eq (hu.ip.trans (congrArg BitVec.toNat hu.same.inEnd))
  have hout := hu.outside
  rw [hlen] at hout
  have hend := hu.same.finished (inPos := s.opr.inLen.toNat) (congrArg BitVec.toNat hop) (hip.trans (w32_toNat _).symm)
    (Nat.zero_le _) hout
  have hbytes := outBytes_finish_at_cursors (u := u) (a := 0) (n := s.opr.expLen.toNat) (by rw [hop, Nat.zero_add])
  rw [hop, hip] at hend hbytes
  refine ⟨_, hrun, hend, hbytes.trans ?_⟩
  rw [← hlen]
  exact hu.output

end Sys2Proof.Machine
end

section
namespace Sys2Proof

/-! ### How far a token stream is read (30_encoding.md rule R66; 42_block_decoder.md rule R143) -/

/-- How many bytes of a token stream have been read at the fault (R143). -/
def Reject.bytesRead : Reject → Nat
  | .litExtShort _ used | .litExtOver _ used => 1 + used
  | .litShort _ len => 1 + extLen len
  | .offShort _ lit => 1 + extLen lit.length + lit.length
  | .offZero _ lit => 1 + extLen lit.length + lit.length + 2
  | .matchExtShort _ lit _ used | .matchExtOver _ lit _ used => 1 + extLen lit.length + lit.length + 2 + used
  | .noToken | .short | .reservedOpcode _ | .badMagic | .badFlg _ | .badBd _ => 0

/-- How many extension bytes have been read where reading a length fails. -/
def LenScan.failsAfter (l : LenScan) (n : Nat) : Prop := l = .short n ∨ l = .over n

theorem scanExt_read_le {maxV acc used n : Nat} {bs : List Byte} (h : (scanExt maxV acc used bs).failsAfter n) :
    n ≤ used + bs.length := by
  induction bs generalizing acc used with
  | nil =>
    rcases h with h | h <;> cases h
    exact Nat.le_refl _
  | cons b bs ih =>
    rw [List.length_cons]
    rw [scanExt] at h
    split_ifs at h
    · rcases h with h | h <;> cases h
      omega
    · have := ih h
      omega
    · rcases h with h | h <;> cases h

/-- No more extension bytes are read than there are (R145, R148). -/
theorem scanLen_read_le {maxV code n : Nat} {bs : List Byte} (h : (scanLen maxV code bs).failsAfter n) :
    n ≤ bs.length := by
  unfold scanLen at h
  split_ifs at h
  · exact (scanExt_read_le h).trans (Nat.zero_add _).le
  · rcases h with h | h <;> cases h

theorem decodeAfterLits_read_le {t : Byte} {lit bs : List Byte} {r : Reject} (h : decodeAfterLits t lit bs = .error r) :
    r.bytesRead ≤ 1 + extLen lit.length + lit.length + bs.length := by
  match bs, h with
  | [], h => cases h
  | [_], h =>
    cases h
    exact Nat.le_add_right ..
  | b0 :: b1 :: bs, h =>
    simp only [decodeAfterLits] at h
    simp only [List.length_cons]
    split at h
    · cases h
      simp only [Reject.bytesRead]
      omega
    · split at h <;> cases h <;> simp only [Reject.bytesRead]
      · next hscan =>
        have := scanLen_read_le (.inl hscan)
        omega
      · next hscan =>
        have := scanLen_read_le (.inr hscan)
        omega

/-- A fault is found within the token stream (R143). -/
theorem decodeToken_read_le {bs : List Byte} {r : Reject} (h : decodeToken bs = .error r) : r.bytesRead ≤ bs.length := by
  match bs, h with
  | [], h =>
    cases h
    exact Nat.le_refl 0
  | t :: bs, h =>
    have ht := t.isLt
    simp only [decodeToken] at h
    rw [List.length_cons]
    split at h
    · next hscan =>
      cases h
      have := scanLen_read_le (.inl hscan)
      simp only [Reject.bytesRead]
      omega
    · next hscan =>
      cases h
      have := scanLen_read_le (.inr hscan)
      simp only [Reject.bytesRead]
      omega
    · next len used rest hscan =>
      obtain ⟨-, rfl⟩ := scanLen_done (by omega) hscan
      rw [List.length_append, encLen_length]
      split_ifs at h with hshort
      · cases h
        simp only [Reject.bytesRead]
        omega
      · have hread := decodeAfterLits_read_le h
        rw [List.length_take, List.length_drop, Nat.min_eq_left (by omega)] at hread
        omega

end Sys2Proof
end

section
namespace Sys2Proof.Machine

/-! ### One step in a token stream (42_block_decoder.md rule R143) -/

/-- What a step in a token stream comes to: a SEQ or a LAST whose checks pass, or an error, raised after the copy of
these literals and with so many bytes of the stream read. -/
inductive TokenOutcome where
  | seq (lit : List Byte) (off : BitVec 16) (mlen : Nat)
  | last (lit : List Byte) (mc : BitVec 4)
  | stop (e : ErrCode) (lit : List Byte) (n : Nat)

section Outcome
variable (i : Internal) (lit : List Byte) (off : BitVec 16)

/-- R143 step 3: the limit check of the literals, then `k`. -/
def Internal.afterLits (k : TokenOutcome) : TokenOutcome :=
  match i.over (i.op.toNat + lit.length) with
  | some e => .stop e [] (1 + extLen lit.length)
  | none => k

/-- R143 step 5: the checks of the offset behind the literals, then `k`. -/
def Internal.afterOff (k : TokenOutcome) : TokenOutcome :=
  if off = 0 ∨ (w32 (i.op.toNat + lit.length)).toNat - i.histLo.toNat < off.toNat then
    .stop .malformedSequence lit (1 + extLen lit.length + lit.length + 2)
  else k

/-- R143 step 7: the limit check of the match behind the literals. -/
def Internal.afterMatch (mlen : Nat) : TokenOutcome :=
  match i.over ((w32 (i.op.toNat + lit.length)).toNat + mlen) with
  | some e => .stop e lit (Instr.seq lit off mlen).size
  | none => .seq lit off mlen

/-- A SEQ (R143 steps 1 to 7). -/
def Internal.seqOutcome (mlen : Nat) : TokenOutcome := i.afterLits lit (i.afterOff lit off (i.afterMatch lit off mlen))

/-- A LAST, up to the terminal test (R143 steps 1 to 3). -/
def Internal.lastOutcome (mc : BitVec 4) : TokenOutcome := i.afterLits lit (.last lit mc)

/-- Bytes that are no encoded sequence: the checks of what stands before the fault, then the error (R143, R206). -/
def Internal.rejectOutcome (r : Reject) : TokenOutcome :=
  match r with
  | .litExtOver _ _ => .stop .malformedSequence [] r.bytesRead
  | .offShort _ lit => i.afterLits lit (.stop .unexpectedEndOfInput lit r.bytesRead)
  | .offZero _ lit => i.afterLits lit (.stop .malformedSequence lit r.bytesRead)
  | .matchExtShort _ lit off _ => i.afterLits lit (i.afterOff lit off (.stop .unexpectedEndOfInput lit r.bytesRead))
  | .matchExtOver _ lit off _ => i.afterLits lit (i.afterOff lit off (.stop .malformedSequence lit r.bytesRead))
  | _ => .stop .unexpectedEndOfInput [] r.bytesRead

/-- What the bytes of a token stream come to, as a function of the registers (R143).  They decode to an encoded sequence
or to none. -/
def Internal.tokenOutcome (bs : List Byte) : TokenOutcome :=
  match decodeToken bs with
  | .ok (.seq lit off mlen) => i.seqOutcome lit off mlen
  | .ok (.last lit mc) => i.lastOutcome lit mc
  | .ok _ => .stop .unexpectedEndOfInput [] 0
  | .error r => i.rejectOutcome r

end Outcome

/-- The decoder has read `n` bytes of its token stream, and copied the literals among them. -/
structure Copied (lit : List Byte) (n : Nat) (s u : State) : Prop where
  same : SameStream s u
  outb : u.outb = s.outb.writeBytes s.int.op.toNat lit
  op : u.int.op = w32 (s.int.op.toNat + lit.length)
  ip : u.int.ip = w32 (s.int.ip.toNat + n)

/-- The state that an outcome leaves. -/
def TokenOutcome.Leaves : TokenOutcome → State → State → Prop
  | .seq lit off mlen, s, t => t = seqDone lit off mlen s
  | .last lit mc, s, t => t = terminalState (lastDone lit mc s)
  | .stop e lit n, s, t => ∃ u, Copied lit n s u ∧ t = u.raiseAtCursors e

section Steps
variable {s u v : State} {lit : List Byte} {n m : Nat}

/-- More bytes read, no more copied. -/
theorem Copied.read (h : Copied lit n s u) (hv : SameStream u v) (hout : v.outb = u.outb) (hop : v.int.op = u.int.op)
    (hip : v.int.ip = w32 (u.int.ip.toNat + m)) : Copied lit (n + m) s v where
  same := h.same.trans hv
  outb := hout.trans h.outb
  op := hop.trans h.op
  ip := by rw [hip, h.ip, w32_toNat_add, Nat.add_assoc]

/-- Bytes read, none copied. -/
theorem copied_read (hu : SameStream s u) (hout : u.outb = s.outb) (hop : u.int.op = s.int.op)
    (hip : u.int.ip = w32 (s.int.ip.toNat + n)) : Copied [] n s u :=
  ⟨hu, hout, hop.trans (w32_toNat _).symm, hip⟩

theorem copied_literals (t : Byte) (lit : List Byte) (s : State) :
    Copied lit (1 + extLen lit.length + lit.length) s ((s.atLits t lit.length).copyLits lit) where
  same := sameStream_literals t lit s
  outb := rfl
  op := rfl
  ip := (w32_toNat_add ..).trans (congrArg w32 (Nat.add_assoc ..))

theorem Copied.atOff (h : Copied lit n s u) (off : BitVec 16) : Copied lit (n + 2) s (u.atOff off) := h.read rfl rfl rfl rfl

theorem Copied.skip (h : Copied lit n s u) (m : Nat) : Copied lit (n + m) s (u.skip m) := h.read rfl rfl rfl rfl

/-- The literals of R143 step 3, and what follows them. -/
theorem litStep_leaves {t : Byte} {k : TokenOutcome} {f : State → Except State State}
    (h : k.Leaves s (stateOf (f ((s.atLits t lit.length).copyLits lit)))) :
    (s.int.afterLits lit k).Leaves s (stateOf (s.litStep t lit >>= f)) := by
  rcases s.litStep_cases t lit with ⟨e, he, hstep⟩ | ⟨he, hstep⟩ <;> rw [hstep, Internal.afterLits, he]
  · exact ⟨s.atLits t lit.length, copied_read rfl rfl rfl rfl, rfl⟩
  · exact h

/-- The offset of R143 step 5, and what follows it. -/
theorem offStep_leaves {off : BitVec 16} {k : TokenOutcome} {f : State → Except State State}
    (hu : Copied lit (1 + extLen lit.length + lit.length) s u) (h : k.Leaves s (stateOf (f (u.atOff off)))) :
    (s.int.afterOff lit off k).Leaves s (stateOf (u.offStep off >>= f)) := by
  have hhist : u.int.histLo = s.int.histLo := congrArg (fun w => w.int.histLo) hu.same
  rw [Internal.afterOff, ← hu.op, ← hhist]
  rcases u.offStep_cases off with ⟨hbad, hstep⟩ | ⟨hne, hle, hstep⟩ <;> rw [hstep]
  · rw [if_pos hbad]
    exact ⟨u.atOff off, hu.atOff off, rfl⟩
  · rw [if_neg (not_or.2 ⟨hne, Nat.not_lt.2 hle⟩)]
    exact h

/-- A SEQ leaves what its outcome says. -/
theorem seqState_leaves (lit : List Byte) (off : BitVec 16) (mlen : Nat) (s : State) :
    (s.int.seqOutcome lit off mlen).Leaves s (seqState lit off mlen s) := by
  refine litStep_leaves (offStep_leaves (copied_literals ..) ?_)
  set u := (s.atLits (tokenByte lit.length (mlen - Config.minMatch)) lit.length).copyLits lit
  have hu : Copied lit _ s u := copied_literals ..
  have hover : (u.atOff off).int.over ((u.atOff off).int.op.toNat + mlen)
      = s.int.over ((w32 (s.int.op.toNat + lit.length)).toNat + mlen) := rfl
  rw [Internal.afterMatch, ← hover]
  rcases (u.atOff off).matchStep_cases mlen with ⟨e, he, hstep⟩ | ⟨he, hstep⟩ <;> rw [hstep, he]
  · exact ⟨(u.atOff off).atMatch mlen, (hu.atOff off).read rfl rfl rfl rfl, rfl⟩
  · rfl

/-- A LAST leaves what its outcome says. -/
theorem lastState_leaves (lit : List Byte) (mc : BitVec 4) (s : State) :
    (s.int.lastOutcome lit mc).Leaves s (lastState lit mc s) :=
  litStep_leaves rfl

/-- Bytes that are no encoded sequence leave what their outcome says. -/
theorem rejectToken_leaves (r : Reject) (s : State) : (s.int.rejectOutcome r).Leaves s (rejectToken r s) := by
  have nothing : Copied [] 0 s s := copied_read rfl rfl rfl (w32_toNat _).symm
  cases r with
  | litExtShort t used => exact ⟨s.atToken t (1 + used), copied_read rfl rfl rfl rfl, rfl⟩
  | litExtOver t used => exact ⟨s.atToken t (1 + used), copied_read rfl rfl rfl rfl, rfl⟩
  | litShort t len => exact ⟨s.atLits t len, copied_read rfl rfl rfl rfl, rfl⟩
  | offShort t lit => exact litStep_leaves ⟨_, copied_literals .., rfl⟩
  | offZero t lit =>
    refine litStep_leaves ?_
    rw [State.offStep, if_pos (.inl rfl)]
    exact ⟨_, (copied_literals ..).atOff 0, rfl⟩
  | matchExtShort t lit off used =>
    exact litStep_leaves (offStep_leaves (copied_literals ..) ⟨_, ((copied_literals ..).atOff off).skip used, rfl⟩)
  | matchExtOver t lit off used =>
    exact litStep_leaves (offStep_leaves (copied_literals ..) ⟨_, ((copied_literals ..).atOff off).skip used, rfl⟩)
  | _ => exact ⟨s, nothing, rfl⟩

/-- A step in a token stream leaves what the outcome of its bytes says (R143). -/
theorem readElement_leaves (s : State) : (s.int.tokenOutcome (s.fetchBytes .token)).Leaves s (readElement .token s) := by
  rw [readElement, Internal.tokenOutcome, decode]
  rcases hd : decodeToken (s.fetchBytes .token) with r | i
  · show (s.int.rejectOutcome r).Leaves s (rejectElement r s)
    rw [decodeToken_error hd s]
    exact rejectToken_leaves r s
  · have hsite := decodeToken_site hd
    cases i with
    | seq lit off mlen => exact seqState_leaves lit off mlen s
    | last lit mc => exact lastState_leaves lit mc s
    | _ => cases hsite

end Steps

end Sys2Proof.Machine
end

section
namespace Sys2Proof.Machine

/-! ### The outcomes of R143's checks -/

section Checks
variable {i : Internal} {lit : List Byte} {off : BitVec 16} {k : TokenOutcome} {mlen : Nat} {e : ErrCode}

theorem Internal.afterLits_of_over_eq_none (h : i.over (i.op.toNat + lit.length) = none) : i.afterLits lit k = k := by
  rw [Internal.afterLits, h]

theorem Internal.afterLits_of_over_eq_some (h : i.over (i.op.toNat + lit.length) = some e) :
    i.afterLits lit k = .stop e [] (1 + extLen lit.length) := by
  rw [Internal.afterLits, h]

theorem Internal.afterOff_of_legal (hlt : i.op.toNat + lit.length < 2 ^ 32) (hne : off ≠ 0)
    (hle : off.toNat ≤ i.op.toNat + lit.length - i.histLo.toNat) : i.afterOff lit off k = k := by
  rw [Internal.afterOff, toNat_w32 hlt, if_neg (not_or.2 ⟨hne, Nat.not_lt.2 hle⟩)]

theorem Internal.afterOff_of_illegal (hlt : i.op.toNat + lit.length < 2 ^ 32)
    (h : off = 0 ∨ i.op.toNat + lit.length - i.histLo.toNat < off.toNat) : i.afterOff lit off k
      = .stop .malformedSequence lit (1 + extLen lit.length + lit.length + 2) := by
  rw [Internal.afterOff, toNat_w32 hlt, if_pos h]

theorem Internal.afterMatch_of_over_eq_none (hlt : i.op.toNat + lit.length < 2 ^ 32)
    (h : i.over (i.op.toNat + lit.length + mlen) = none) : i.afterMatch lit off mlen = .seq lit off mlen := by
  rw [Internal.afterMatch, toNat_w32 hlt, h]

theorem Internal.afterMatch_of_over_eq_some (hlt : i.op.toNat + lit.length < 2 ^ 32)
    (h : i.over (i.op.toNat + lit.length + mlen) = some e) :
    i.afterMatch lit off mlen = .stop e lit (Instr.seq lit off mlen).size := by
  rw [Internal.afterMatch, toNat_w32 hlt, h]

/-- The error of a limit that is passed: the block maximum's before the buffer's (R142). -/
theorem Internal.over_of_fails {n : Nat} (h : i.limBlk.toNat < n ∧ e = .malformedSequence
    ∨ n ≤ i.limBlk.toNat ∧ (∃ b, i.limBuf = some b ∧ b.toNat < n) ∧ e = .insufficientOutputSpace) :
    i.over n = some e := by
  rcases h with ⟨hlt, rfl⟩ | ⟨hle, ⟨b, hb, hlt⟩, rfl⟩
  · exact if_pos hlt
  · rw [Internal.over, if_neg (Nat.not_lt.2 hle), hb]
    exact if_pos hlt

theorem Room.lt {n : Nat} {s : State} (h : Room n s) : n < 2 ^ 32 := h.2.1.trans_lt s.opr.outCap.isLt

end Checks

/-! ### The end of a command in a token stream -/

section Copied
variable {s u : State} {lit : List Byte} {n : Nat} (h : Copied lit n s u)
include h

theorem Copied.outside : SameOutBut s.int.op.toNat (s.int.op.toNat + lit.length) s u := fun _ ha => by
  rw [h.outb, Memory.read_writeBytes_outside _ ha]

theorem Copied.literals : u.outBytes s.int.op.toNat lit.length = lit :=
  (outBytes_of_outb (s := s.outWrite s.int.op.toNat lit) h.outb h.same.outFree).trans (s.outBytes_outWrite ..)

variable (hlt : s.int.op.toNat + lit.length < 2 ^ 32)
include hlt

theorem Copied.op_toNat : u.int.op.toNat = s.int.op.toNat + lit.length := by rw [h.op, toNat_w32 hlt]

/-- An error at the cursors leaves the literals copied (R206). -/
theorem Copied.raised (e : ErrCode) :
    Raised e s.res s.int.op.toNat (s.int.op.toNat + lit.length) (s.int.ip.toNat + n) s (u.raiseAtCursors e)
      ∧ (u.raiseAtCursors e).outBytes s.int.op.toNat lit.length = lit := by
  have hop := h.op_toNat hlt
  exact ⟨h.same.raised hop h.ip (Nat.le_add_right ..) h.outside e, (outBytes_raiseAtCursors e hop.ge).trans h.literals⟩

/-- So does the end without error. -/
theorem Copied.finished : Ended { s.status with state := .done } s.err s.res s.int.op.toNat
      (s.int.op.toNat + lit.length) (s.int.ip.toNat + n) s (u.finish u.int.op u.int.ip)
    ∧ (u.finish u.int.op u.int.ip).outBytes s.int.op.toNat lit.length = lit := by
  have hop := h.op_toNat hlt
  exact ⟨h.same.finished hop h.ip (Nat.le_add_right ..) h.outside, (outBytes_finish_at_cursors hop.ge).trans h.literals⟩

end Copied

theorem Room.literals {m n : Nat} {s : State} (h : Room (m + n) s) : s.int.over m = none ∧ m < 2 ^ 32 :=
  ⟨h.over (Nat.le_add_right ..), (Nat.le_add_right ..).trans_lt h.lt⟩

theorem copied_lastDone (lit : List Byte) (mc : BitVec 4) (s : State) :
    Copied lit (Instr.last lit mc).size s (lastDone lit mc s) := copied_literals ..

/-- A LAST whose literals fit goes on to the terminal test (R143 step 4). -/
theorem exec_last {s : State} {lit : List Byte} (mc : BitVec 4) (hroom : Room (s.int.op.toNat + lit.length) s) :
    exec (.last lit mc) s = .next (terminalState (lastDone lit mc s)) := by
  have hleaves := lastState_leaves lit mc s
  rw [Internal.lastOutcome, Internal.afterLits_of_over_eq_none (hroom.over (Nat.le_refl _))] at hleaves
  exact congrArg Host.Outcome.next hleaves

/-! ### The statements on encoded sequences (42_block_decoder.md) -/

/-- Settles O27: all checks pass, and the match copy's bytes are those of `outByteOf_copyBack`. -/
theorem seqCopiesLiteralsAndMatch : Obligations.SeqCopiesLiteralsAndMatch := by
  rintro s lit off mlen p hwf rfl - hoff hroom
  obtain ⟨hover, hlt⟩ := hroom.literals
  have hne := off_ne_zero_of_wf hwf
  have hpos : 1 ≤ off.toNat := Nat.one_le_iff_ne_zero.2 fun h0 => hne (BitVec.eq_of_toNat_eq h0)
  have hleaves := seqState_leaves lit off mlen s
  rw [Internal.seqOutcome, Internal.afterLits_of_over_eq_none hover, Internal.afterOff_of_legal hlt hne hoff,
    Internal.afterMatch_of_over_eq_none hlt (hroom.over (Nat.le_refl _))] at hleaves
  obtain ⟨hip, hop⟩ := seqDone_cursors lit off mlen s
  have hsame := seqDone_same lit off mlen s
  have houtb := seqDone_outb lit off mlen s
  rw [toNat_w32 hlt] at houtb
  have hbyte : ∀ a, (seqDone lit off mlen s).outByte a = outByteOf s.outFree
      (copyBack s.outFree off.toNat mlen (s.int.op.toNat + lit.length) (s.outb.writeBytes s.int.op.toNat lit)) a :=
    fun a => by rw [State.outByte, hsame.outFree, houtb]
  have hbefore : ∀ a, a < s.int.op.toNat + lit.length → (seqDone lit off mlen s).outByte a
      = (s.outWrite s.int.op.toNat lit).outByte a := fun a ha => by
    rw [hbyte, outByteOf, copyBack_read_outside _ _ _ _ _ (.inl ha)]
    rfl
  refine ⟨seqDone lit off mlen s, congrArg Host.Outcome.next hleaves, ?_, ?_, fun i hi => ?_, fun a ha => ?_⟩
  · rw [← hip, ← hop]
    exact hsame
  · rw [outBytes_congr fun i _ hi => hbefore i hi, State.outBytes_outWrite]
  · rw [hbyte, outByteOf_copyBack _ _ hpos (by omega) hi]
    by_cases hfirst : i < off.toNat
    · have hsrc : s.int.op.toNat + lit.length + i - off.toNat = s.int.op.toNat + lit.length - off.toNat + i := by omega
      rw [Nat.mod_eq_of_lt hfirst, ← hsrc, hbefore _ (by omega)]
      rfl
    · have hsrc : s.int.op.toNat + lit.length + i - off.toNat = s.int.op.toNat + lit.length + (i - off.toNat) := by omega
      rw [hsrc, hbyte, outByteOf_copyBack _ _ hpos (by omega) (by omega), ← Nat.mod_eq_sub_mod (Nat.le_of_not_lt hfirst)]
  · rw [houtb, copyBack_read_outside _ _ _ _ _ (by omega), Memory.read_writeBytes_outside _ (by omega)]

/-- Settles O28: the outcome of the offset's checks. -/
theorem seqRefusesBadOffset : Obligations.SeqRefusesBadOffset := by
  rintro s lit off mlen p - rfl - hroom hbad
  have hleaves := seqState_leaves lit off mlen s
  rw [Internal.seqOutcome, Internal.afterLits_of_over_eq_none (hroom.over (Nat.le_refl _)),
    Internal.afterOff_of_illegal hroom.lt hbad] at hleaves
  obtain ⟨u, hu, ht⟩ := hleaves
  refine ⟨_, rfl, ?_⟩
  rw [ht, Nat.add_assoc, Nat.add_assoc, ← Nat.add_assoc (1 + extLen lit.length)]
  exact hu.raised hroom.lt .malformedSequence

/-- Settles O29: the outcome of each limit check. -/
theorem copiesStopAtTheLimits : Obligations.CopiesStopAtTheLimits := by
  rintro s lit off mlen p mc e rfl fails
  have nothing : ∀ {t n}, (TokenOutcome.stop e [] n).Leaves s t →
      Raised e s.res s.int.op.toNat s.int.op.toNat (s.int.ip.toNat + n) s t := by
    rintro t n ⟨u, hu, rfl⟩
    exact (hu.raised s.int.op.isLt e).1
  refine ⟨fun _ _ hfails => ⟨_, rfl, ?_⟩, fun hwf _ => ⟨fun hfails => ⟨_, rfl, ?_⟩, fun hroom hoff hfails => ?_⟩⟩
  · have hleaves := lastState_leaves lit mc s
    rw [Internal.lastOutcome, Internal.afterLits_of_over_eq_some (Internal.over_of_fails hfails)] at hleaves
    exact nothing hleaves
  · have hleaves := seqState_leaves lit off mlen s
    rw [Internal.seqOutcome, Internal.afterLits_of_over_eq_some (Internal.over_of_fails hfails)] at hleaves
    exact nothing hleaves
  · have hleaves := seqState_leaves lit off mlen s
    rw [Internal.seqOutcome, Internal.afterLits_of_over_eq_none (hroom.over (Nat.le_refl _)),
      Internal.afterOff_of_legal hroom.lt (off_ne_zero_of_wf hwf) hoff,
      Internal.afterMatch_of_over_eq_some hroom.lt (Internal.over_of_fails hfails)] at hleaves
    obtain ⟨u, hu, ht⟩ := hleaves
    refine ⟨_, rfl, ?_⟩
    rw [ht]
    exact hu.raised hroom.lt e

/-- Settles O30: the terminal test in exact mode. -/
theorem lastEndsExactMode : Obligations.LastEndsExactMode := by
  rintro s lit mc p - hexact rfl - hroom
  have hcopied := copied_lastDone lit mc s
  have hop := hcopied.op_toNat hroom.lt
  have hlim : (lastDone lit mc s).int.limBlk = s.int.limBlk := rfl
  have hmode : (lastDone lit mc s).int.exactMode = true := hexact
  refine ⟨fun hfull => ⟨_, exec_last mc hroom, ?_⟩, fun hshort => ⟨_, exec_last mc hroom, ?_⟩⟩
  · rw [terminalState_of_complete hmode (by rw [hop, hlim, hfull])]
    exact hcopied.finished hroom.lt
  · rw [terminalState, if_pos hmode, if_pos (by rw [hop, hlim]; exact hshort.ne)]
    exact hcopied.raised hroom.lt .outputSizeMismatch

/-- The end of a data block, its output fed to the content checksum where there is one (R174). -/
theorem closeBlock_eq (u : State) : closeBlock u = { u with
    res := { u.res with blockIdx := u.res.blockIdx + 1#32 }
    int := { u.int with
      ip := w32 (u.int.ip.toNat + 4 * u.int.bck.toNat)
      cc := if u.int.cck then u.int.cc ++ u.outBytes u.int.bstart.toNat (u.int.op.toNat - u.int.bstart.toNat) else u.int.cc
      point := .block } } := by
  cases h : u.int.cck <;> simp [closeBlock, State.skip, h]

/-- Settles O31: the terminal test in bounded mode closes the data block. -/
theorem lastEndsDataBlock : Obligations.LastEndsDataBlock := by
  rintro s lit mc p - hmode rfl - hroom
  have hcopied := copied_lastDone lit mc s
  have hend : terminalState (lastDone lit mc s) = closeBlock (lastDone lit mc s) :=
    if_neg (ne_true_of_eq_false hmode)
  rw [closeBlock_eq] at hend
  refine ⟨_, exec_last mc hroom, ?_⟩
  rw [hend, hcopied.op_toNat hroom.lt]
  refine ⟨?_, hcopied.literals, hcopied.outside⟩
  have hip : w32 ((lastDone lit mc s).int.ip.toNat + 4 * s.int.bck.toNat)
      = w32 (s.int.ip.toNat + (Instr.last lit mc).size + 4 * s.int.bck.toNat) := by
    rw [hcopied.ip, w32_toNat_add]
  rw [← hip]
  rfl

end Sys2Proof.Machine
end

section
namespace Sys2Proof.Machine

/-! ### What the outcome of a step in a token stream says -/

/-- What an outcome says of the bytes and the registers it came from (R142, R143, R147). -/
def TokenOutcome.Sound (i : Internal) (bs : List Byte) : TokenOutcome → Prop
  | .seq lit off mlen => (∃ rest, bs = encode (.seq lit off mlen) ++ rest) ∧ (Instr.seq lit off mlen).wf = true
      ∧ off.toNat ≤ (w32 (i.op.toNat + lit.length)).toNat - i.histLo.toNat ∧ i.over (i.op.toNat + lit.length) = none
      ∧ i.over ((w32 (i.op.toNat + lit.length)).toNat + mlen) = none
  | .last lit mc => bs = encode (.last lit mc) ∧ i.over (i.op.toNat + lit.length) = none
  | .stop e lit n => n ≤ bs.length ∧ (lit = [] ∨ i.over (i.op.toNat + lit.length) = none)
      ∧ (e = .malformedSequence ∨ e = .unexpectedEndOfInput ∨ ∃ k, i.over k = some e)

section Sound
variable {i : Internal} {bs lit : List Byte} {off : BitVec 16} {mlen : Nat} {k : TokenOutcome}

theorem Internal.afterLits_sound (hn : 1 + extLen lit.length ≤ bs.length)
    (hk : i.over (i.op.toNat + lit.length) = none → k.Sound i bs) : (i.afterLits lit k).Sound i bs := by
  rcases h : i.over (i.op.toNat + lit.length) with _ | e
  · rw [afterLits_of_over_eq_none h]
    exact hk h
  · rw [afterLits_of_over_eq_some h]
    exact ⟨hn, .inl rfl, .inr (.inr ⟨_, h⟩)⟩

theorem Internal.afterOff_sound (hn : 1 + extLen lit.length + lit.length + 2 ≤ bs.length)
    (hover : i.over (i.op.toNat + lit.length) = none)
    (hk : off.toNat ≤ (w32 (i.op.toNat + lit.length)).toNat - i.histLo.toNat → k.Sound i bs) :
    (i.afterOff lit off k).Sound i bs := by
  unfold Internal.afterOff
  split_ifs with h
  · exact ⟨hn, .inr hover, .inl rfl⟩
  · exact hk (Nat.le_of_not_lt (not_or.1 h).2)

theorem Internal.rejectOutcome_sound {r : Reject} (hn : r.bytesRead ≤ bs.length) : (i.rejectOutcome r).Sound i bs := by
  cases r with
  | litExtOver t used => exact ⟨hn, .inl rfl, .inl rfl⟩
  | offShort t lit =>
    exact afterLits_sound (by simp only [Reject.bytesRead] at hn; omega) fun h => ⟨hn, .inr h, .inr (.inl rfl)⟩
  | offZero t lit =>
    exact afterLits_sound (by simp only [Reject.bytesRead] at hn; omega) fun h => ⟨hn, .inr h, .inl rfl⟩
  | matchExtShort t lit off used =>
    simp only [Reject.bytesRead] at hn
    exact afterLits_sound (by omega) fun h => afterOff_sound (by omega) h fun _ => ⟨hn, .inr h, .inr (.inl rfl)⟩
  | matchExtOver t lit off used =>
    simp only [Reject.bytesRead] at hn
    exact afterLits_sound (by omega) fun h => afterOff_sound (by omega) h fun _ => ⟨hn, .inr h, .inl rfl⟩
  | _ => exact ⟨hn, .inl rfl, .inr (.inl rfl)⟩

theorem Internal.seqOutcome_sound {rest : List Byte} (hbs : bs = encode (.seq lit off mlen) ++ rest)
    (hwf : (Instr.seq lit off mlen).wf = true) : (i.seqOutcome lit off mlen).Sound i bs := by
  have hn : (Instr.seq lit off mlen).size ≤ bs.length := by
    rw [hbs, List.length_append, encode_length]
    exact Nat.le_add_right ..
  refine afterLits_sound (by simp only [Instr.size] at hn; omega) fun hlits =>
    afterOff_sound (by simp only [Instr.size] at hn; omega) hlits fun hoff => ?_
  rcases h : i.over ((w32 (i.op.toNat + lit.length)).toNat + mlen) with _ | e <;> rw [afterMatch, h]
  · exact ⟨⟨rest, hbs⟩, hwf, hoff, hlits, h⟩
  · exact ⟨hn, .inr hlits, .inr (.inr ⟨_, h⟩)⟩

/-- The outcome of a step is true of its bytes and registers. -/
theorem Internal.tokenOutcome_sound (i : Internal) (bs : List Byte) : (i.tokenOutcome bs).Sound i bs := by
  unfold Internal.tokenOutcome
  rcases hd : decodeToken bs with r | j
  · exact rejectOutcome_sound (decodeToken_read_le hd)
  · obtain ⟨rest, hbs, hlast⟩ := decodeToken_bytes hd
    have hsite := decodeToken_site hd
    cases j with
    | seq lit off mlen => exact seqOutcome_sound hbs (decodeToken_wf hd)
    | last lit mc =>
      rw [hlast ⟨lit, mc, rfl⟩, List.append_nil] at hbs
      refine afterLits_sound ?_ fun h => ⟨hbs, h⟩
      rw [hbs, encode_length, Instr.size]
      exact Nat.le_add_right ..
    | _ => cases hsite

end Sound

/-- Of the registers only `op`, `hist_lo` and the limits bear on the outcome (R154). -/
theorem Internal.tokenOutcome_congr {i j : Internal} (hop : i.op = j.op) (hhist : i.histLo = j.histLo)
    (hblk : i.limBlk = j.limBlk) (hbuf : i.limBuf = j.limBuf) : i.tokenOutcome = j.tokenOutcome := by
  have hover : i.over = j.over := by
    funext n
    rw [Internal.over, Internal.over, hblk, hbuf]
  have hlits : i.afterLits = j.afterLits := by
    funext lit k
    rw [afterLits, afterLits, hover, hop]
  have hoff : i.afterOff = j.afterOff := by
    funext lit off k
    rw [afterOff, afterOff, hop, hhist]
  have hmatch : i.afterMatch = j.afterMatch := by
    funext lit off mlen
    rw [afterMatch, afterMatch, hover, hop]
  have hseq : i.seqOutcome = j.seqOutcome := by
    funext lit off mlen
    rw [seqOutcome, seqOutcome, hlits, hoff, hmatch]
  have hlast : i.lastOutcome = j.lastOutcome := by
    funext lit mc
    rw [lastOutcome, lastOutcome, hlits]
  have hrej : i.rejectOutcome = j.rejectOutcome := by
    funext r
    simp only [rejectOutcome, hlits, hoff]
  funext bs
  simp only [tokenOutcome, hseq, hlast, hrej]

/-! ### A whole run of DBLOCK (42_block_decoder.md rules R140, R143, R153, R154) -/

/-- The registers that bear on DBLOCK's steps, when `out` has been produced of `m` expected bytes (R140). -/
def blockRegs (m : Word) (out : List Byte) : Internal := { op := w32 out.length, limBlk := m.setWidth 33 }

theorem blockRegs_over_eq_none {m : Word} {out : List Byte} {n : Nat} (h : (blockRegs m out).over n = none) :
    n ≤ m.toNat := by
  have hlim : (blockRegs m out).limBlk.toNat = m.toNat :=
    (BitVec.toNat_setWidth ..).trans (Nat.mod_eq_of_lt (by have := m.isLt; omega))
  rcases (blockRegs m out).over_cases n with ⟨-, hle, -⟩ | ⟨he, -⟩ | ⟨he, -⟩
  · exact hlim ▸ hle
  · rw [he] at h
    cases h
  · rw [he] at h
    cases h

theorem blockRegs_over_eq_some {m : Word} {out : List Byte} {n : Nat} {e : ErrCode}
    (h : (blockRegs m out).over n = some e) : e = .malformedSequence := by
  rcases (blockRegs m out).over_cases n with ⟨he, -⟩ | ⟨he, -⟩ | ⟨-, -, b, hb, -⟩
  · rw [he] at h
    cases h
  · rw [he] at h
    exact (Option.some.inj h).symm
  · cases hb

/-- How DBLOCK ends: Done, where `err` is none, or in an error, with this output and so many bytes of input read. -/
structure BlockEnd where
  err : ErrCode
  out : List Byte
  inPos : Nat

/-- What an end of DBLOCK leaves. -/
def BlockEnd.Reached (r : BlockEnd) (s t : State) : Prop :=
  Ended { state := if r.err = .none then .done else .error, lastCmd := 0x03#8 } r.err {} 0 r.out.length r.inPos s t
    ∧ t.outBytes 0 r.out.length = r.out

/-- What an end of DBLOCK says of the output before it and of the rest of its input: `n` is `IN_LEN` and `m` is
`EXP_LEN`. -/
structure BlockEnd.Sound (n m : Word) (out rest : List Byte) (r : BlockEnd) : Prop where
  err : r.err ∈ [.none, .outputSizeMismatch, .malformedSequence, .unexpectedEndOfInput]
  out_le : r.out.length ≤ m.toNat
  inPos_le : r.inPos ≤ n.toNat
  legal : r.err = .none → ∃ qs lit mc, rest = blockBytes qs lit mc ∧ legalSeqs out.length qs = true
    ∧ r.out = replay qs out ++ lit ∧ r.out.length = m.toNat

theorem BlockEnd.Reached.not_busy {r : BlockEnd} {s t : State} (h : r.Reached s t) : t.busy = false := by
  rw [State.busy, h.1.1]
  dsimp only
  split_ifs <;> rfl

/-- The decoder has read `n` more bytes, and copied the literals among them. -/
theorem Decodes.copied {s u v : State} {out rest lit : List Byte} {n : Nat} (h : Decodes s u out rest)
    (hc : Copied lit n u v) (hn : n ≤ rest.length) (hlt : out.length + lit.length < 2 ^ 32)
    (hle : s.int.op.toNat ≤ out.length) : Decodes s v (out ++ lit) (rest.drop n) := by
  have hin := u.int.inEnd.isLt
  have hip := h.ip
  have hop := hc.op_toNat (h.op ▸ hlt)
  have htake : (rest.take n).length = n := List.length_take_of_le hn
  have hip' : v.int.ip.toNat = u.int.ip.toNat + n := by
    rw [hc.ip]
    exact toNat_w32 (by omega)
  have hlits := hc.literals
  have hout := hc.outside
  rw [h.op] at hop hlits hout
  refine ⟨h.same.trans hc.same, ?_, ?_, ?_, ?_, ?_⟩
  · exact fetchBytes_drop hc.same (bs := rest.take n) (htake.symm ▸ hip') (by omega)
      (h.left.trans (List.take_append_drop n rest).symm)
  · rw [hip', hc.same.inEnd, List.length_drop]
    omega
  · rw [hop, List.length_append]
  · have hbefore : v.outBytes 0 out.length = out :=
      (outBytes_congr fun i _ hi => hout.outByte hc.same.outFree (.inl (by omega))).trans h.output
    rw [List.length_append, outBytes_append, hbefore, Nat.zero_add, hlits]
  · rw [List.length_append]
    exact (h.outside.mono (Nat.le_refl _) (Nat.le_add_right ..)).trans (hout.mono hle (Nat.le_refl _))

section Run
variable {s u : State} {out rest : List Byte} (h : Decodes (dblockStart s) u out rest)
include h

theorem Decodes.ip_eq : u.int.ip = w32 (s.opr.inLen.toNat - rest.length) := by
  have hip := h.ip
  have hend : u.int.inEnd = s.opr.inLen := h.same.inEnd
  rw [hend] at hip
  rw [← hip, Nat.add_sub_cancel, w32_toNat]

theorem Decodes.reached_error {e : ErrCode} (he : e ≠ .none) :
    BlockEnd.Reached ⟨e, out, s.opr.inLen.toNat - rest.length⟩ s (u.raiseAtCursors e) := by
  refine ⟨?_, (outBytes_raiseAtCursors e (by rw [h.op, Nat.zero_add])).trans h.output⟩
  rw [if_neg he]
  exact h.same.raised h.op h.ip_eq (Nat.zero_le _) h.outside e

theorem Decodes.reached_done :
    BlockEnd.Reached ⟨.none, out, s.opr.inLen.toNat - rest.length⟩ s (u.finish u.int.op u.int.ip) :=
  ⟨h.same.finished h.op h.ip_eq (Nat.zero_le _) h.outside,
    (outBytes_finish_at_cursors (by rw [h.op, Nat.zero_add])).trans h.output⟩

/-- DBLOCK's next step leaves what its outcome says, and the outcome depends on the output so far, the rest of the input
and `EXP_LEN` alone. -/
theorem Decodes.step_leaves : ((blockRegs s.opr.expLen out).tokenOutcome rest).Leaves u (engineStep u) := by
  have hpoint : u.int.point = .tokens := congrArg (fun w => w.int.point) h.same
  have hop : (blockRegs s.opr.expLen out).op = u.int.op := by
    rw [← w32_toNat u.int.op, h.op]
    rfl
  rw [engineStep_tokens hpoint, ← h.left,
    Internal.tokenOutcome_congr hop (congrArg (fun w => w.int.histLo) h.same).symm
      (congrArg (fun w => w.int.limBlk) h.same).symm (congrArg (fun w => w.int.limBuf) h.same).symm]
  exact readElement_leaves u

theorem Decodes.run_succ (k : Nat) : runEngine (k + 1) u = runEngine k (engineStep u) := by
  have hbusy : u.busy = true := congrArg (fun w => w.busy) h.same
  rw [runEngine_succ, hbusy, if_pos rfl]

theorem Decodes.reached_of_step {r : BlockEnd} (hr : r.Reached s (engineStep u)) {k : Nat} (hk : 0 < k) :
    r.Reached s (runEngine k u) := by
  obtain ⟨j, rfl⟩ : ∃ j, k = j + 1 := ⟨k - 1, by omega⟩
  rw [h.run_succ, runEngine_of_not_busy _ hr.not_busy]
  exact hr

/-- The terminal test of DBLOCK, after the literals of its LAST (R147, R151). -/
theorem Decodes.reached_terminal : BlockEnd.Reached
    ⟨if out.length = s.opr.expLen.toNat then .none else .outputSizeMismatch, out, s.opr.inLen.toNat - rest.length⟩ s
    (terminalState u) := by
  have hexact : u.int.exactMode = true := congrArg (fun w => w.int.exactMode) h.same
  have hlim : u.int.limBlk.toNat = s.opr.expLen.toNat := by
    have hblk : u.int.limBlk = s.opr.expLen.setWidth 33 := congrArg (fun w => w.int.limBlk) h.same
    rw [hblk]
    exact (BitVec.toNat_setWidth ..).trans (Nat.mod_eq_of_lt (by have := s.opr.expLen.isLt; omega))
  by_cases hlen : out.length = s.opr.expLen.toNat
  · rw [if_pos hlen, terminalState_of_complete hexact (by rw [h.op, hlim, hlen])]
    exact h.reached_done
  · rw [if_neg hlen, terminalState, if_pos hexact, if_pos (by rw [h.op, hlim]; exact hlen)]
    exact h.reached_error (by decide)

end Run

/-- `r` is the end of every run of DBLOCK with these values of `IN_LEN` and `EXP_LEN`, from where it has put out `out`
and has `rest` before it. -/
def BlockEnd.EndOf (n m : Word) (out rest : List Byte) (r : BlockEnd) : Prop :=
  ∀ s u : State, s.opr.inLen = n → s.opr.expLen = m → m.toNat ≤ s.opr.outCap.toNat →
    Decodes (dblockStart s) u out rest → ∀ k, rest.length < k → r.Reached s (runEngine k u)

section Ends
variable {n m : Word} {out rest lit : List Byte} (hm : out.length ≤ m.toNat)
include hm

theorem blockRegs_op : (blockRegs m out).op.toNat = out.length := toNat_w32 (hm.trans_lt m.isLt)

/-- A step that stops is the end of the run. -/
theorem dblock_ends_stop {e : ErrCode} {j : Nat} (ho : (blockRegs m out).tokenOutcome rest = .stop e lit j) :
    ∃ r : BlockEnd, r.Sound n m out rest ∧ r.EndOf n m out rest := by
  have hsound := (blockRegs m out).tokenOutcome_sound rest
  rw [ho] at hsound
  obtain ⟨hj, hlits, herr⟩ := hsound
  have he : e = .malformedSequence ∨ e = .unexpectedEndOfInput := by
    rcases herr with he | he | ⟨k, hk⟩
    · exact .inl he
    · exact .inr he
    · exact .inl (blockRegs_over_eq_some hk)
  have hne : e ≠ .none := by rcases he with rfl | rfl <;> decide
  have hlen : out.length + lit.length ≤ m.toNat := by
    rcases hlits with rfl | hover
    · exact hm
    · exact blockRegs_op hm ▸ blockRegs_over_eq_none hover
  refine ⟨⟨e, out ++ lit, n.toNat - (rest.drop j).length⟩, ⟨?_, ?_, Nat.sub_le .., fun h0 => absurd h0 hne⟩, ?_⟩
  · dsimp only
    rcases he with rfl | rfl <;> decide
  · rw [List.length_append]
    exact hlen
  · rintro s u rfl rfl - hu k hk
    have hleaves := hu.step_leaves
    rw [ho] at hleaves
    obtain ⟨v, hv, hstep⟩ := hleaves
    have hd := hu.copied hv hj (hlen.trans_lt s.opr.expLen.isLt) (Nat.zero_le _)
    exact hu.reached_of_step (hstep ▸ hd.reached_error hne) (Nat.zero_lt_of_lt hk)

/-- A LAST is the end of the run, Done when the output is complete. -/
theorem dblock_ends_last {mc : BitVec 4} (ho : (blockRegs m out).tokenOutcome rest = .last lit mc) :
    ∃ r : BlockEnd, r.Sound n m out rest ∧ r.EndOf n m out rest := by
  have hsound := (blockRegs m out).tokenOutcome_sound rest
  rw [ho] at hsound
  obtain ⟨hrest, hover⟩ := hsound
  have hlen : (out ++ lit).length ≤ m.toNat := by
    rw [List.length_append]
    exact blockRegs_op hm ▸ blockRegs_over_eq_none hover
  refine ⟨⟨if (out ++ lit).length = m.toNat then .none else .outputSizeMismatch, out ++ lit, n.toNat - 0⟩,
    ⟨?_, hlen, Nat.le_refl _, fun h0 => ?_⟩, ?_⟩
  · dsimp only
    split_ifs <;> decide
  · dsimp only at h0
    split_ifs at h0 with hfull
    exact ⟨[], lit, mc, hrest, rfl, rfl, hfull⟩
  · rintro s u rfl rfl hcap hu k hk
    have hstep := hu.step_leaves
    rw [ho] at hstep
    replace hstep : engineStep u = terminalState (lastDone lit mc u) := hstep
    rw [List.length_append] at hlen
    have hroom : u.int.op.toNat + lit.length ≤ u.opr.outCap.toNat := by
      have hopr : u.opr = s.opr := congrArg (fun w => w.opr) hu.same
      rw [hu.op, hopr]
      exact hlen.trans hcap
    have hd := decodes_last (hu.left.trans hrest) (hrest ▸ hu.ip) hroom
    rw [hu.op, hu.output] at hd
    have hv := hu.trans hd (Nat.zero_le _) (by rw [List.length_append]; exact Nat.le_add_right ..)
    exact hu.reached_of_step (hstep ▸ hv.reached_terminal) (Nat.zero_lt_of_lt hk)

/-- A SEQ is decoded, and the run goes on to the end of what is left. -/
theorem dblock_ends_seq {off : BitVec 16} {mlen : Nat} (ho : (blockRegs m out).tokenOutcome rest = .seq lit off mlen)
    (ih : ∀ out' rest' : List Byte, rest'.length < rest.length → out'.length ≤ m.toNat →
      ∃ r : BlockEnd, r.Sound n m out' rest' ∧ r.EndOf n m out' rest') :
    ∃ r : BlockEnd, r.Sound n m out rest ∧ r.EndOf n m out rest := by
  have hsound := (blockRegs m out).tokenOutcome_sound rest
  rw [ho] at hsound
  obtain ⟨⟨rest', hrest⟩, hwf, hoff, hlits, hmatch⟩ := hsound
  replace hlits := blockRegs_over_eq_none hlits
  replace hmatch := blockRegs_over_eq_none hmatch
  rw [blockRegs_op hm] at hlits hoff hmatch
  rw [toNat_w32 (hlits.trans_lt m.isLt)] at hoff hmatch
  have hpos : 1 ≤ off.toNat :=
    Nat.one_le_iff_ne_zero.2 fun h0 => off_ne_zero_of_wf hwf (BitVec.eq_of_toNat_eq h0)
  set out' := replayMatch off.toNat mlen (out ++ lit) with hout'
  have hlen' : out'.length = out.length + lit.length + mlen := by rw [hout', replayMatch_length, List.length_append]
  have hshort : rest'.length < rest.length := by
    have hsize : 0 < (encode (.seq lit off mlen)).length := (encode_length _).symm ▸ (Laws.EncodingSize.seq ..).2
    rw [hrest, List.length_append]
    omega
  obtain ⟨r, hr, hend⟩ := ih out' rest' hshort (hlen'.trans_le hmatch)
  refine ⟨r, ⟨hr.err, hr.out_le, hr.inPos_le, fun h0 => ?_⟩, fun s u hn hexp hcap hu k hk => ?_⟩
  · obtain ⟨qs, lit', mc, hblock, hlegal, hreplay, hfull⟩ := hr.legal h0
    refine ⟨⟨lit, off, mlen⟩ :: qs, lit', mc, ?_, ?_, hreplay, hfull⟩
    · rw [hrest, hblock, blockBytes, blockBytes, List.map_cons, List.flatten_cons, List.append_assoc]
    · rw [legalSeqs, hwf, ← hlen', hlegal, Bool.true_and, Bool.and_true, decide_eq_true_eq]
      exact hoff
  · have hstep := hu.step_leaves
    rw [hexp, ho] at hstep
    replace hstep : engineStep u = seqDone lit off mlen u := hstep
    have hroom : u.int.op.toNat + lit.length + mlen ≤ u.opr.outCap.toNat := by
      have hopr : u.opr = s.opr := congrArg (fun w => w.opr) hu.same
      rw [hu.op, hopr]
      exact hmatch.trans hcap
    have hd := decodes_seq (q := ⟨lit, off, mlen⟩) (hu.left.trans hrest) (hrest ▸ hu.ip) hpos (hu.op.symm ▸ hoff) hroom
    rw [hu.op, hu.output] at hd
    have hv := hu.trans hd (Nat.zero_le _) (by rw [← hout', hlen', Nat.add_assoc]; exact Nat.le_add_right ..)
    obtain ⟨j, rfl⟩ : ∃ j, k = j + 1 := ⟨k - 1, by omega⟩
    rw [hu.run_succ, hstep]
    exact hend s _ hn hexp hcap hv j (by omega)

end Ends

/-- Every run of DBLOCK ends, and its end depends on `IN_LEN`, `EXP_LEN`, the output so far and the rest of the input
alone; by induction on the rest of the input. -/
theorem dblock_ends (n m : Word) (out rest : List Byte) (hm : out.length ≤ m.toNat) :
    ∃ r : BlockEnd, r.Sound n m out rest ∧ r.EndOf n m out rest := by
  induction hlen : rest.length using Nat.strong_induction_on generalizing out rest with
  | _ len ih =>
    cases ho : (blockRegs m out).tokenOutcome rest with
    | seq lit off mlen =>
      exact dblock_ends_seq hm ho fun out' rest' hlt hm' => ih _ (hlen ▸ hlt) out' rest' hm' rfl
    | last lit mc => exact dblock_ends_last hm ho
    | stop e lit j => exact dblock_ends_stop hm ho

/-- DBLOCK with room for the expected output ends as its operands say (R140, R154). -/
theorem exec_dblock_ends (n m : Word) (bs : List Byte) : ∃ r : BlockEnd, r.Sound n m [] bs ∧ ∀ s : State,
    s.busy = false → s.opr.inLen = n → s.opr.expLen = m → m.toNat ≤ s.opr.outCap.toNat → s.inBytes 0 n.toNat = bs →
    ∃ t, exec .dblock s = .next t ∧ r.Reached s t := by
  obtain ⟨r, hr, hend⟩ := dblock_ends n m [] bs (Nat.zero_le _)
  refine ⟨r, hr, fun s hb hn hm hcap hbs => ⟨_, rfl, ?_⟩⟩
  have hlen : bs.length = s.opr.inLen.toNat := by rw [← hbs, State.inBytes_length, hn]
  have hfetch : (dblockStart s).fetchBytes .token = bs := by
    rw [← hn] at hbs
    exact hbs
  have hstart : Decodes (dblockStart s) (dblockStart s) [] bs :=
    ⟨rfl, hfetch, (Nat.zero_add _).trans hlen, rfl, rfl, fun _ _ => rfl⟩
  have henter : engineStep (s.startCmd .dblock) = dblockStart s := enterDblock_of_room (hm ▸ hcap)
  have hfuel : (s.startCmd .dblock).fuel = 3 * s.opr.inLen.toNat + 15 + 1 := rfl
  rw [runCommand, hb, if_neg Bool.false_ne_true, State.runToEnd, hfuel, runEngine_succ, henter]
  exact hend s _ hn hm hcap hstart _ (by omega)

/-- DBLOCK without room for the expected output fails before it writes a byte (R140, R151). -/
theorem exec_dblock_of_no_room {s : State} (hb : s.busy = false) (hcap : s.opr.outCap.toNat < s.opr.expLen.toNat) :
    exec .dblock s = .next ((s.startCmd .dblock).raiseUntouched .outputSizeMismatch) :=
  congrArg Host.Outcome.next (runCommand_of_one_step hb (if_pos hcap) rfl)

/-! ### The statements on DBLOCK (42_block_decoder.md) -/

/-- Settles O24: an end that is Done is sound. -/
theorem dblockDoneOnlyOnLegalBlock : Obligations.DblockDoneOnlyOnLegalBlock := by
  intro s t hb hexec hdone
  have hcap : s.opr.expLen.toNat ≤ s.opr.outCap.toNat := by
    by_contra hno
    rw [exec_dblock_of_no_room hb (Nat.lt_of_not_le hno)] at hexec
    cases hexec
    cases hdone
  obtain ⟨r, hr, hend⟩ := exec_dblock_ends s.opr.inLen s.opr.expLen (s.inBytes 0 s.opr.inLen.toNat)
  obtain ⟨t', hrun, ⟨hstatus, -⟩, hout⟩ := hend s hb rfl rfl hcap rfl
  obtain rfl : t' = t := by injection hrun.symm.trans hexec
  have herr : r.err = .none := by
    by_contra hne
    rw [hstatus, if_neg hne] at hdone
    cases hdone
  obtain ⟨qs, lit, mc, hbytes, hlegal, hreplay, hlen⟩ := hr.legal herr
  rw [hlen, hreplay] at hout
  have hinput : (blockBytes qs lit mc).length = s.opr.inLen.toNat := by rw [← hbytes, State.inBytes_length]
  refine ⟨qs, lit, mc, ⟨hinput, ?_⟩, hlegal, ?_, hout⟩
  · rw [hinput, hbytes]
  · rw [← hreplay, hlen]

/-- Settles O25: every end is sound, and an untouched refusal where there is no room. -/
theorem dblockIsSafe : Obligations.DblockIsSafe := by
  intro s hb
  by_cases hcap : s.opr.expLen.toNat ≤ s.opr.outCap.toNat
  · obtain ⟨r, hr, hend⟩ := exec_dblock_ends s.opr.inLen s.opr.expLen (s.inBytes 0 s.opr.inLen.toNat)
    obtain ⟨t, hrun, ⟨hstatus, herr, hres, hht, hkept, hun⟩, -⟩ := hend s hb rfl rfl hcap rfl
    have hout : t.res.outLen.toNat = r.out.length := by
      rw [hres]
      exact toNat_w32 (hr.out_le.trans_lt s.opr.expLen.isLt)
    have hin : t.res.inPos.toNat ≤ r.inPos := by
      rw [hres]
      exact toNat_w32_le _
    refine ⟨t, hrun, ?_, by rw [hres], hout ▸ hr.out_le, hout ▸ hr.out_le.trans hcap, hin.trans hr.inPos_le, hht, hkept,
      hout ▸ hun, fun hno => absurd hcap (Nat.not_le.2 hno)⟩
    rw [hstatus, herr]
    by_cases h0 : r.err = .none
    · exact .inl ⟨by rw [if_pos h0], h0⟩
    · exact .inr ⟨by rw [if_neg h0], (List.mem_cons.1 hr.err).resolve_left h0⟩
  · have hrun := exec_dblock_of_no_room hb (Nat.lt_of_not_le hcap)
    have hkept := exec_kept hrun
    refine ⟨_, hrun, .inr ⟨rfl, List.mem_cons_self ..⟩, rfl, Nat.zero_le _, Nat.zero_le _, Nat.zero_le _, rfl, hkept,
      ⟨fun _ _ => .inl rfl, fun _ _ => ⟨rfl, rfl⟩⟩, fun _ => ⟨rfl, rfl, rfl, rfl, fun _ => ⟨rfl, rfl⟩, hkept⟩⟩

/-- Settles O26: both runs reach one end. -/
theorem dblockIsDeterminedByOperands : Obligations.DblockIsDeterminedByOperands := by
  intro s s' t t' hb hb' hn hm hc hbs hexec hexec'
  by_cases hcap : s.opr.expLen.toNat ≤ s.opr.outCap.toNat
  · obtain ⟨r, hr, hend⟩ := exec_dblock_ends s.opr.inLen s.opr.expLen (s.inBytes 0 s.opr.inLen.toNat)
    obtain ⟨v, hrun, ⟨hstatus, herr, hres, -⟩, hout⟩ := hend s hb rfl rfl hcap rfl
    obtain ⟨v', hrun', ⟨hstatus', herr', hres', -⟩, hout'⟩ := hend s' hb' hn hm (hc ▸ hcap) hbs
    obtain rfl : v = t := by injection hrun.symm.trans hexec
    obtain rfl : v' = t' := by injection hrun'.symm.trans hexec'
    have hlen : v.res.outLen.toNat = r.out.length := by
      rw [hres]
      exact toNat_w32 (hr.out_le.trans_lt s.opr.expLen.isLt)
    rw [hlen]
    exact ⟨hstatus'.trans hstatus.symm, herr'.trans herr.symm, hres'.trans hres.symm, hout'.trans hout.symm⟩
  · rw [exec_dblock_of_no_room hb (Nat.lt_of_not_le hcap)] at hexec
    rw [exec_dblock_of_no_room hb' (by rw [hc, hm]; exact Nat.lt_of_not_le hcap)] at hexec'
    cases hexec
    cases hexec'
    exact ⟨rfl, rfl, rfl, rfl⟩

end Sys2Proof.Machine
end

section
namespace Sys2Proof

/-! ### Where reading a token stream fails (30_encoding.md rule R66; 42_block_decoder.md rules R145, R148) -/

theorem scanExt_replicate {maxV acc used k : Nat} (rest : List Byte) (h : acc + 255 * k ≤ maxV) :
    scanExt maxV acc used (List.replicate k 255#8 ++ rest) = scanExt maxV (acc + 255 * k) (used + k) rest := by
  induction k generalizing acc used with
  | zero => rfl
  | succ k ih =>
    have h255 : (255#8).toNat = 255 := rfl
    have hacc : acc + 255 + 255 * k = acc + 255 * (k + 1) := by omega
    rw [List.replicate_succ, List.cons_append, scanExt, h255, if_neg (by omega), if_pos rfl, ih (by omega), hacc,
      Nat.add_right_comm, Nat.add_assoc]

/-- A run of extension bytes that the input cuts off. -/
theorem scanLen_of_short {maxV k : Nat} (h : 15 + 255 * k ≤ maxV) :
    scanLen maxV 15 (List.replicate k 255#8) = .short k := by
  have hrun := scanExt_replicate (used := 0) [] h
  rw [List.append_nil, Nat.zero_add] at hrun
  exact hrun

/-- A run of extension bytes whose sum passes the bound. -/
theorem scanLen_of_over {maxV k : Nat} {b : Byte} (more : List Byte) (h : 15 + 255 * k ≤ maxV)
    (hb : maxV < 15 + 255 * k + b.toNat) : scanLen maxV 15 (List.replicate k 255#8 ++ b :: more) = .over (k + 1) := by
  have hrun := scanExt_replicate (used := 0) (b :: more) h
  rw [scanExt, if_pos hb, Nat.zero_add] at hrun
  exact hrun

/-- Behind its literals a token stream is decoded as what follows them. -/
theorem decodeToken_of_literals {t : Byte} {lit : List Byte} (more : List Byte) (ht : t.toNat / 16 = lenCode lit.length)
    (hlit : lit.length < 2 ^ 32) :
    decodeToken (t :: (encLen lit.length ++ lit ++ more)) = decodeAfterLits t lit more := by
  obtain ⟨used, hscan⟩ := scanLen_encLen (maxV := maxLit) (v := lit.length) (lit ++ more) (by rw [maxLit]; omega)
  have hroom : ¬ (lit ++ more).length < lit.length := by simp
  simp only [decodeToken, ht, List.append_assoc, hscan, if_neg hroom, List.take_left, List.drop_left]

end Sys2Proof
end

section
namespace Sys2Proof.Machine

/-! ### The outcomes of bytes that are no encoded sequence -/

section Outcomes
variable {i : Internal} {t b b0 b1 : Byte} {lit : List Byte}

/-- The offset of two bytes (R68). -/
theorem toNat_offset (b0 b1 : Byte) : (BitVec.ofNat 16 (leNat [b0, b1])).toNat = b0.toNat + 256 * b1.toNat := by
  have h0 := b0.isLt
  have h1 := b1.isLt
  rw [leNat, leNat, leNat, BitVec.toNat_ofNat]
  omega

theorem offset_eq_zero_iff (b0 b1 : Byte) :
    BitVec.ofNat 16 (leNat [b0, b1]) = 0 ↔ b0.toNat + 256 * b1.toNat = 0 := by
  rw [← toNat_offset]
  exact ⟨fun h => by rw [h]; rfl, fun h => BitVec.eq_of_toNat_eq h⟩

theorem tokenOutcome_of_error {bs : List Byte} {r : Reject} (h : decodeToken bs = .error r) :
    i.tokenOutcome bs = i.rejectOutcome r := by
  rw [Internal.tokenOutcome, h]

theorem tokenOutcome_of_litExtShort {k : Nat} (ht : t.toNat / 16 = 15) (hk : 15 + 255 * k < 2 ^ 32) :
    i.tokenOutcome (t :: List.replicate k 255#8) = .stop .unexpectedEndOfInput [] (1 + k) := by
  refine tokenOutcome_of_error (r := .litExtShort t k) ?_
  rw [decodeToken, ht, scanLen_of_short (by rw [maxLit]; omega)]

theorem tokenOutcome_of_litExtOver {k : Nat} (more : List Byte) (ht : t.toNat / 16 = 15) (hk : 15 + 255 * k < 2 ^ 32)
    (hb : 2 ^ 32 ≤ 15 + 255 * k + b.toNat) :
    i.tokenOutcome (t :: (List.replicate k 255#8 ++ b :: more)) = .stop .malformedSequence [] (1 + (k + 1)) := by
  refine tokenOutcome_of_error (r := .litExtOver t (k + 1)) ?_
  rw [decodeToken, ht, scanLen_of_over more (by rw [maxLit]; omega) (by rw [maxLit]; omega)]

theorem tokenOutcome_of_litShort {len : Nat} (ht : t.toNat / 16 = lenCode len) (hlen : len < 2 ^ 32)
    (hlit : lit.length < len) :
    i.tokenOutcome (t :: (encLen len ++ lit)) = .stop .unexpectedEndOfInput [] (1 + extLen len) := by
  refine tokenOutcome_of_error (r := .litShort t len) ?_
  obtain ⟨used, hscan⟩ := scanLen_encLen (maxV := maxLit) lit (show len ≤ maxLit by rw [maxLit]; omega)
  simp only [decodeToken, ht, hscan, if_pos hlit]

section Literals
variable (ht : t.toNat / 16 = lenCode lit.length) (hlit : lit.length < 2 ^ 32)
include ht hlit

theorem tokenOutcome_of_offShort : i.tokenOutcome (t :: (encLen lit.length ++ lit ++ [b]))
    = i.afterLits lit (.stop .unexpectedEndOfInput lit (1 + extLen lit.length + lit.length)) :=
  tokenOutcome_of_error (decodeToken_of_literals [b] ht hlit)

/-- Whatever follows the offset, it is checked first (R147). -/
theorem tokenOutcome_of_offset (more : List Byte) : ∃ k, i.tokenOutcome (t :: (encLen lit.length ++ lit ++ b0 :: b1 :: more))
    = i.afterLits lit (i.afterOff lit (BitVec.ofNat 16 (leNat [b0, b1])) k) := by
  have hd := decodeToken_of_literals (b0 :: b1 :: more) ht hlit
  by_cases h0 : BitVec.ofNat 16 (leNat [b0, b1]) = 0
  · have hzero : decodeAfterLits t lit (b0 :: b1 :: more) = .error (.offZero t lit) := if_pos h0
    exact ⟨.stop .malformedSequence [] 0, (tokenOutcome_of_error (hd.trans hzero)).trans
      (congrArg (i.afterLits lit) (if_pos (.inl h0)).symm)⟩
  · rw [Internal.tokenOutcome, hd, decodeAfterLits, if_neg h0]
    cases scanLen maxMatchCode (t.toNat % 16) more <;> exact ⟨_, rfl⟩

/-- Whatever follows the literals, their limit is checked first (R142, R146). -/
theorem tokenOutcome_of_literals (more : List Byte) :
    ∃ k, i.tokenOutcome (t :: (encLen lit.length ++ lit ++ more)) = i.afterLits lit k := by
  match more with
  | [] => exact ⟨_, by rw [Internal.tokenOutcome, decodeToken_of_literals [] ht hlit, decodeAfterLits]; rfl⟩
  | [b] => exact ⟨_, tokenOutcome_of_offShort ht hlit⟩
  | b0 :: b1 :: more =>
    obtain ⟨k, hk⟩ := tokenOutcome_of_offset ht hlit more
    exact ⟨_, hk⟩

variable (hoff : b0.toNat + 256 * b1.toNat ≠ 0) (hm : t.toNat % 16 = 15) {k : Nat} (hk : 15 + 255 * k + 4 < 2 ^ 32)
include hoff hm hk

theorem tokenOutcome_of_matchExtShort :
    i.tokenOutcome (t :: (encLen lit.length ++ lit ++ b0 :: b1 :: List.replicate k 255#8))
      = i.afterLits lit (i.afterOff lit (BitVec.ofNat 16 (leNat [b0, b1]))
        (.stop .unexpectedEndOfInput lit (1 + extLen lit.length + lit.length + 2 + k))) := by
  refine tokenOutcome_of_error (r := .matchExtShort t lit (BitVec.ofNat 16 (leNat [b0, b1])) k) ?_
  rw [decodeToken_of_literals _ ht hlit, decodeAfterLits, if_neg (mt (offset_eq_zero_iff b0 b1).1 hoff), hm,
    scanLen_of_short (by rw [maxMatchCode]; omega)]

theorem tokenOutcome_of_matchExtOver (more : List Byte) (hb : 2 ^ 32 ≤ 15 + 255 * k + b.toNat + 4) :
    i.tokenOutcome (t :: (encLen lit.length ++ lit ++ b0 :: b1 :: (List.replicate k 255#8 ++ b :: more)))
      = i.afterLits lit (i.afterOff lit (BitVec.ofNat 16 (leNat [b0, b1]))
        (.stop .malformedSequence lit (1 + extLen lit.length + lit.length + 2 + (k + 1)))) := by
  refine tokenOutcome_of_error (r := .matchExtOver t lit (BitVec.ofNat 16 (leNat [b0, b1])) (k + 1)) ?_
  rw [decodeToken_of_literals _ ht hlit, decodeAfterLits, if_neg (mt (offset_eq_zero_iff b0 b1).1 hoff), hm,
    scanLen_of_over more (by rw [maxMatchCode]; omega) (by rw [maxMatchCode]; omega)]

end Literals
end Outcomes

/-! ### Steps that raise an error (42_block_decoder.md rule R143, 43_frame.md rule R162) -/

section Stops
variable {s : State} {e : ErrCode} {lit : List Byte} {n inPos : Nat} (hhost : s.host = []) (hb : s.busy = true)

/-- Where the input ends before an element of a frame, nothing of it is read (R162, `need`). -/
theorem engineStep_of_short {site : Site} (hs : s.int.point.site = some site) (htok : site ≠ .token)
    (hshort : s.opr.inLen.toNat < s.int.fetchAt site + siteNeed site) :
    (TokenOutcome.stop .unexpectedEndOfInput [] 0).Leaves s (engineStep s) := by
  have hfetch : s.fetchBytes site = [] := by
    by_contra hne
    exact absurd (fetchBytes_ne_nil htok hne) (Nat.not_le.2 hshort)
  have hdecode : decode site [] = .error .short := by
    cases site <;> first | rfl | exact absurd rfl htok
  refine ⟨s, copied_read rfl rfl rfl (w32_toNat _).symm, ?_⟩
  rw [engineStep_element hs, readElement, hfetch, hdecode]
  rfl

include hhost hb

theorem step_of_stop (h : (TokenOutcome.stop e lit n).Leaves s (engineStep s))
    (hlt : s.int.op.toNat + lit.length < 2 ^ 32) (hpos : inPos = s.int.ip.toNat + n) : ∃ u, step s = .next u
      ∧ Raised e s.res s.int.op.toNat (s.int.op.toNat + lit.length) inPos s u
      ∧ u.outBytes s.int.op.toNat lit.length = lit := by
  obtain ⟨v, hv, hstep⟩ := h
  rw [step_of_busy hhost hb, hstep, hpos]
  exact ⟨_, rfl, hv.raised hlt e⟩

theorem step_of_tokenOutcome {bs : List Byte} (hp : s.int.point = .tokens)
    (hbs : s.inBytes s.int.ip.toNat (s.int.inEnd.toNat - s.int.ip.toNat) = bs)
    (ho : s.int.tokenOutcome bs = .stop e lit n) (hlt : s.int.op.toNat + lit.length < 2 ^ 32)
    (hpos : inPos = s.int.ip.toNat + n) : ∃ u, step s = .next u
      ∧ Raised e s.res s.int.op.toNat (s.int.op.toNat + lit.length) inPos s u
      ∧ u.outBytes s.int.op.toNat lit.length = lit := by
  refine step_of_stop hhost hb ?_ hlt hpos
  have hleaves := readElement_leaves s
  have hfetch : s.fetchBytes .token = bs := hbs
  rw [hfetch, ho] at hleaves
  rw [engineStep_tokens hp]
  exact hleaves

end Stops

/-- Settles O44: the outcome of each fault, in the order of R143. -/
theorem bytesThatAreNoElementStop : Obligations.BytesThatAreNoElementStop := by
  intro s hhost hb ip op stops
  have hop : s.int.op.toNat + ([] : List Byte).length < 2 ^ 32 := s.int.op.isLt
  constructor
  · have short : ∀ {site : Site}, s.int.point.site = some site → site ≠ .token →
        s.opr.inLen.toNat < s.int.fetchAt site + siteNeed site → stops .unexpectedEndOfInput [] ip :=
      fun hsite htok hlt => step_of_stop hhost hb (engineStep_of_short hsite htok hlt) hop rfl
    rintro (⟨hp, hend⟩ | ⟨hp | hp | hp, hlt⟩ | ⟨hp, hlt⟩)
    · refine step_of_tokenOutcome (bs := []) hhost hb hp ?_ rfl hop rfl
      rw [Nat.sub_eq_zero_of_le hend]
      rfl
    · exact short (site := .magic) (by rw [hp]; rfl) nofun hlt
    · exact short (site := .block) (by rw [hp]; rfl) nofun hlt
    · exact short (site := .cck) (by rw [hp]; rfl) nofun hlt
    · exact short (site := .flg) (by rw [hp]; rfl) nofun hlt
  intro hp t b b0 b1 k len lit more e stream lits head off reach
  refine ⟨fun ht hk => ⟨fun hs => ?_, fun hs hover => ?_⟩, fun ht hlen hlit hs => ?_, fun ht hlit =>
    ⟨fun hs hover => ?_, fun hroom => ⟨fun hs => ?_, fun hs hbad => ?_, fun hne hle hm hk =>
      ⟨fun hs => ?_, fun hs hover => ?_⟩⟩⟩⟩
  · exact step_of_tokenOutcome hhost hb hp hs (tokenOutcome_of_litExtShort ht hk) hop (Nat.add_assoc ..)
  · exact step_of_tokenOutcome hhost hb hp hs (tokenOutcome_of_litExtOver more ht hk hover) hop (by omega)
  · exact step_of_tokenOutcome hhost hb hp hs (tokenOutcome_of_litShort ht hlen hlit) hop rfl
  · obtain ⟨k, ho⟩ := tokenOutcome_of_literals (i := s.int) ht hlit more
    rw [Internal.afterLits_of_over_eq_some hover] at ho
    exact step_of_tokenOutcome hhost hb hp hs ho hop rfl
  all_goals have hlits := hroom.over (Nat.le_refl _)
  · have ho := tokenOutcome_of_offShort (i := s.int) (b := b) ht hlit
    rw [Internal.afterLits_of_over_eq_none hlits] at ho
    exact step_of_tokenOutcome hhost hb hp hs ho hroom.lt (by omega)
  · obtain ⟨k, ho⟩ := tokenOutcome_of_offset (i := s.int) (b0 := b0) (b1 := b1) ht hlit more
    rw [Internal.afterLits_of_over_eq_none hlits, Internal.afterOff_of_illegal hroom.lt
      (by rw [offset_eq_zero_iff, toNat_offset]; exact hbad)] at ho
    exact step_of_tokenOutcome hhost hb hp hs ho hroom.lt (by omega)
  all_goals have hlegal : ∀ k, s.int.afterOff lit (BitVec.ofNat 16 (leNat [b0, b1])) k = k := fun k =>
    Internal.afterOff_of_legal hroom.lt (mt (offset_eq_zero_iff b0 b1).1 hne) (by rw [toNat_offset]; exact hle)
  · have ho := tokenOutcome_of_matchExtShort (i := s.int) ht hlit hne hm hk
    rw [Internal.afterLits_of_over_eq_none hlits, hlegal] at ho
    exact step_of_tokenOutcome hhost hb hp hs ho hroom.lt (by omega)
  · have ho := tokenOutcome_of_matchExtOver (i := s.int) ht hlit hne hm hk more hover
    rw [Internal.afterLits_of_over_eq_none hlits, hlegal] at ho
    exact step_of_tokenOutcome hhost hb hp hs ho hroom.lt (by omega)

end Sys2Proof.Machine
end

section
namespace Sys2Proof.Machine

/-! ### ABORT (43_frame.md rule R190) -/

theorem exec_abort (s : State) : exec .abort s = .next s.abandon := rfl

/-- Settles O7: the fields of `State.abandon`, and what leaving `OUT` unspecified does to its bytes. -/
theorem abortAbandonsSession : Obligations.AbortAbandonsSession := by
  intro s
  refine ⟨s.abandon, exec_abort s, ?_, ?_, ?_, ?_, ?_, exec_kept (exec_abort s), fun hb => ?_, fun a ha => ?_⟩
  · exact fun _ => rfl
  · rfl
  · rfl
  · rfl
  · rfl
  · rw [State.abandon, hb]
    exact fun _ => ⟨rfl, rfl⟩
  · rw [State.abandon]
    cases s.busy with
    | false => rfl
    | true =>
      rcases s.freeOut_cases 0 s.opr.outCap.toNat a with ⟨-, hlt, -⟩ | ⟨-, hread, -⟩
      · omega
      · exact hread

/-! ### How a frame command ends (43_frame.md rules R162, R177; 60_exceptions.md rule R205) -/

/-- `u` differs from `s` at most in what the frame reader moves: `STATUS`, result registers, `OUT` and the internal
registers. -/
def SameReader (s u : State) : Prop :=
  u = { s with status := u.status, res := u.res, outb := u.outb, int := u.int }

theorem SameReader.refl (s : State) : SameReader s s := rfl

theorem SameReader.trans {s t u : State} (h : SameReader s t) (h' : SameReader t u) : SameReader s u := by
  unfold SameReader at h h'
  rw [h] at h'
  exact h'

theorem SameStream.sameReader {s u : State} (h : SameStream s u) : SameReader s u := by
  unfold SameStream at h
  rw [h]
  rfl

theorem SameReader.opr {s u : State} (h : SameReader s u) : u.opr = s.opr := congrArg (fun v => v.opr) h
theorem SameReader.cfg {s u : State} (h : SameReader s u) : u.cfg = s.cfg := congrArg (fun v => v.cfg) h
theorem SameReader.err {s u : State} (h : SameReader s u) : u.err = s.err := congrArg (fun v => v.err) h

theorem SameReader.inBytes {s u : State} (h : SameReader s u) : u.inBytes = s.inBytes := by
  unfold SameReader at h
  rw [h]
  rfl

theorem SameReader.outFree {s u : State} (h : SameReader s u) : u.outFree = s.outFree := by
  unfold SameReader at h
  rw [h]
  rfl

/-- How a command has ended says nothing of the `STATUS`, results and registers that it started from. -/
theorem Ended.of_sameReader {st : Status} {e : ErrCode} {r : Results} {lo n p : Nat} {s s' t : State}
    (h : Ended st e r lo n p s' t) (hsame : SameReader s s') (hout : s'.outb = s.outb) : Ended st e r lo n p s t := by
  unfold SameReader at hsame
  rw [hout] at hsame
  rw [hsame] at h
  exact h

section Ends
variable {s u : State} {lo hi inPos : Nat} (hsame : SameReader s u) (hop : u.int.op.toNat = hi)
  (hip : u.int.ip = w32 inPos) (hlo : lo ≤ hi) (hout : SameOutBut lo hi s u)
include hsame hop hip hlo hout

/-- The reader raises an error at its cursors (R205). -/
theorem SameReader.raised (e : ErrCode) :
    Ended (errorStatus u.status) e u.res lo hi inPos s (u.raiseAtCursors e) := by
  have hstream : SameStream { u with outb := s.outb } u := rfl
  exact Ended.of_sameReader (hstream.raised hop hip hlo hout e) (SameReader.trans hsame rfl) rfl

/-- The reader ends the command without error at its cursors (R18, R29). -/
theorem SameReader.finished : Ended { u.status with state := .done } u.err u.res lo hi inPos s
    (u.finish u.int.op u.int.ip) := by
  have hstream : SameStream { u with outb := s.outb } u := rfl
  exact Ended.of_sameReader (hstream.finished hop hip hlo hout) (SameReader.trans hsame rfl) rfl

end Ends

/-- An error of the reader before it has written a byte. -/
theorem SameReader.raised_unwritten {s u : State} {inPos : Nat} (hsame : SameReader s u) (hout : u.outb = s.outb)
    (hop : u.int.op = s.int.op) (hip : u.int.ip = w32 inPos) (e : ErrCode) :
    Ended (errorStatus u.status) e u.res s.int.op.toNat s.int.op.toNat inPos s (u.raiseAtCursors e) :=
  hsame.raised (congrArg BitVec.toNat hop) hip (Nat.le_refl _) (fun _ _ => by rw [hout]) e

/-- An error of the reader right where it stands. -/
theorem raised_here (e : ErrCode) (s : State) :
    Raised e s.res s.int.op.toNat s.int.op.toNat s.int.ip.toNat s (s.raiseAtCursors e) :=
  (SameReader.refl s).raised_unwritten rfl rfl (w32_toNat _).symm e

end Sys2Proof.Machine
end

section
namespace Sys2Proof.Machine

/-! ### The header's elements (43_frame.md rules R162 to R169) -/

theorem ip_add_toNat {s : State} {n : Nat} (h : s.int.ip.toNat + n ≤ s.opr.inLen.toNat) :
    (w32 (s.int.ip.toNat + n)).toNat = s.int.ip.toNat + n :=
  toNat_w32 (h.trans_lt s.opr.inLen.isLt)

theorem getLsbD_toNat (b : Byte) (i : Nat) : (b.getLsbD i).toNat = b.toNat / 2 ^ i % 2 := by
  rw [BitVec.getLsbD, Nat.toNat_testBit]

/-- The descriptor's length, from the bits of FLG that size it (R165). -/
theorem descLen_eq (flg : Byte) : descLen flg = 2 + 8 * (flg.toNat / 8 % 2) + 4 * (flg.toNat % 2) := by
  rw [descLen, getLsbD_toNat, getLsbD_toNat, Nat.pow_zero, Nat.div_one]
  rfl

/-- The FLG byte carries version 01 and its six fields (R75). -/
theorem flgByte_fields (indep bck csz cck rsv did : Bool) : let b := flgByte indep bck csz cck rsv did
    b.toNat / 64 = 1 ∧ b.getLsbD 5 = indep ∧ b.getLsbD 4 = bck ∧ b.getLsbD 3 = csz ∧ b.getLsbD 2 = cck
      ∧ b.getLsbD 1 = rsv ∧ b.getLsbD 0 = did := by
  revert indep bck csz cck rsv did
  decide

/-- The BD byte carries its code in bits 6:4 (R76). -/
theorem bdByte_toNat (code : BitVec 3) : (bdByte code).toNat = 16 * code.toNat := by
  have hlt := code.isLt
  rw [bdByte, BitVec.toNat_ofNat, Nat.mod_eq_of_lt (by omega)]

theorem bdState_of_room {b : Byte} {s : State} (h : s.int.ip.toNat + descLen s.int.flg + 1 ≤ s.opr.inLen.toNat) :
    bdState b s = { s with int := { s.int with bd := b, point := .hc } } :=
  if_neg (show ¬ s.opr.inLen.toNat - s.int.ip.toNat < descLen s.int.flg + 1 by omega)

theorem bdState_of_short {b : Byte} {s : State} (hip : s.int.ip.toNat ≤ s.opr.inLen.toNat)
    (h : s.opr.inLen.toNat < s.int.ip.toNat + descLen s.int.flg + 1) :
    bdState b s = { s with int := { s.int with bd := b, point := .hc } }.raiseAtCursors .unexpectedEndOfInput :=
  if_pos (show s.opr.inLen.toNat - s.int.ip.toNat < descLen s.int.flg + 1 by omega)

/-- The end of the header: `ip` past it, the blocks follow (step H4). -/
theorem openBlocks_eq (s : State) : openBlocks s = { s with
    status := { s.status with fsm := .blocks }
    int := { s.int with point := .block, ip := w32 (s.int.ip.toNat + descLen s.int.flg + 1) } } := by
  rw [Nat.add_assoc]
  rfl

theorem afterCsize_of_did {s : State} (h : s.int.did = true) :
    afterCsize s = { s with int := { s.int with point := .dictid } } := if_pos h

theorem afterCsize_of_no_did {s : State} (h : s.int.did = false) : afterCsize s = openBlocks s :=
  if_neg (ne_true_of_eq_false h)

/-- The content size in its two registers (R77). -/
theorem csize_words (v : BitVec 64) :
    (w32 (v.toNat % 2 ^ 32)).toNat + 2 ^ 32 * (w32 (v.toNat / 2 ^ 32)).toNat = v.toNat := by
  have hlt := v.isLt
  rw [toNat_w32 (by omega), toNat_w32 (by omega)]
  omega

/-- The content size recorded in its registers (R77). -/
def State.withCsize (v : BitVec 64) (s : State) : State :=
  { s with res := { s.res with csizeLo := w32 (v.toNat % 2 ^ 32), csizeHi := w32 (v.toNat / 2 ^ 32) } }

theorem csizeState_eq (v : BitVec 64) (s : State) : csizeState v s = afterCsize (s.withCsize v) := rfl

/-- Settles O36: each element's own equation. -/
theorem headerElementsAreTaken : Obligations.HeaderElementsAreTaken := by
  refine ⟨fun s hfit => ⟨_, ip_add_toNat hfit, rfl⟩, fun s indep bck csz cck rsv did => ?_, fun s code hip => ?_,
    fun s v d hfit => ⟨?_, ?_⟩⟩
  · exact ⟨flgByte indep bck csz cck rsv did, rfl, flgByte_fields indep bck csz cck rsv did⟩
  · rw [← descLen_eq]
    refine ⟨fun hroom => ⟨bdByte code, bdByte_toNat code, ?_⟩, fun hshort => ⟨_, rfl, ?_⟩⟩
    · exact congrArg Host.Outcome.next (bdState_of_room hroom)
    · rw [bdState_of_short hip hshort]
      exact SameReader.raised_unwritten (u := { s with int := { s.int with bd := bdByte code, point := .hc } }) rfl rfl rfl
        (w32_toNat _).symm _
  · refine ⟨csizeState v s, rfl, ?_⟩
    rw [csizeState_eq]
    cases hdid : s.int.did with
    | true =>
      rw [afterCsize_of_did (s := s.withCsize v) hdid]
      exact ⟨rfl, csize_words v, fun _ => rfl, nofun⟩
    | false =>
      rw [afterCsize_of_no_did (s := s.withCsize v) hdid, openBlocks_eq]
      exact ⟨rfl, csize_words v, nofun, fun _ => rfl⟩
  · exact congrArg Host.Outcome.next (openBlocks_eq _)

/-! #### HC -/

theorem headerByte_toNat (cfg : Params) (d : List Byte) : (headerByte cfg d).toNat = (ck32 cfg d).toNat / 2 ^ 8 % 256 := by
  rw [headerByte_eq, BitVec.toNat_ofNat]
  exact Nat.mod_mod ..

theorem descIllegal_iff (flg bd : Byte) : descIllegal flg bd = true ↔ flg.toNat / 64 ≠ 1 ∨ flg.getLsbD 1 = true
    ∨ bd.getLsbD 7 = true ∨ bd.toNat % 16 ≠ 0 ∨ bd.toNat / 16 % 8 < 4 := by
  simp only [descIllegal, Bool.or_eq_true, decide_eq_true_eq, or_assoc]

theorem blockMax_lt {code : Nat} (h : code < 8) : blockMax code < 2 ^ 32 :=
  Nat.pow_lt_pow_right (by decide) (by omega)

/-- HC and the flags taken: the content size, the dictionary ID or the blocks follow (step H4). -/
def afterHc (s : State) : State := if s.int.csz then { s with int := { s.int with point := .csize } } else afterCsize s

theorem afterHc_of_csz {s : State} (h : s.int.csz = true) :
    afterHc s = { s with int := { s.int with point := .csize } } := if_pos h

theorem afterHc_of_no_csz {s : State} (h : s.int.csz = false) : afterHc s = afterCsize s :=
  if_neg (ne_true_of_eq_false h)

section Hc
variable {s : State} {h : Byte}

theorem hcState_of_wrong (hne : h ≠ headerByte s.cfg (s.inBytes s.int.ip.toNat (descLen s.int.flg))) :
    hcState h s = (s.withDesc h).raiseAtCursors .headerChecksumMismatch := if_pos hne

variable (heq : h = headerByte s.cfg (s.inBytes s.int.ip.toNat (descLen s.int.flg)))
include heq

theorem hcState_of_illegal (hill : descIllegal s.int.flg s.int.bd = true) :
    hcState h s = (s.withDesc h).raiseAtCursors .formatViolation :=
  (if_neg (not_not.2 heq)).trans (if_pos hill)

theorem hcState_of_legal (hleg : descIllegal s.int.flg s.int.bd = false) :
    hcState h s = afterHc (latchFlags (s.withDesc h)) :=
  (if_neg (not_not.2 heq)).trans (if_neg (ne_true_of_eq_false hleg))

end Hc

/-- Settles O37: the three equations of HC, the last one with the two flags that say what follows. -/
theorem hcDecidesTheHeader : Obligations.HcDecidesTheHeader := by
  intro s h hfit flg bd seen right illegal
  have hright : right ↔ h = headerByte s.cfg (s.inBytes s.int.ip.toNat (descLen flg)) := by
    rw [← BitVec.toNat_inj, headerByte_toNat]
  refine ⟨fun hwrong => ⟨_, rfl, ?_⟩, fun hr hill => ⟨_, rfl, ?_⟩, fun hr hleg => ⟨_, rfl, ?_⟩⟩
  · rw [hcState_of_wrong (mt hright.2 hwrong)]
    exact SameReader.raised_unwritten (u := s.withDesc h) rfl rfl rfl (w32_toNat _).symm _
  · rw [hcState_of_illegal (hright.1 hr) ((descIllegal_iff flg bd).2 hill)]
    exact SameReader.raised_unwritten (u := s.withDesc h) rfl rfl rfl (w32_toNat _).symm _
  · rw [hcState_of_legal (hright.1 hr) (Bool.eq_false_iff.2 (mt (descIllegal_iff flg bd).1 hleg))]
    have hbmax : (w32 (blockMax (bd.toNat / 16 % 8))).toNat = 2 ^ (8 + 2 * (bd.toNat / 16 % 8)) :=
      toNat_w32 (blockMax_lt (Nat.mod_lt _ (by decide)))
    have clash : ∀ {b : Bool}, b = true → b = false → False := fun ht hf => Bool.false_ne_true (hf.symm.trans ht)
    rcases Bool.eq_false_or_eq_true (flg.getLsbD 3) with hcsz | hcsz
    · rw [afterHc_of_csz (s := latchFlags (s.withDesc h)) hcsz]
      exact ⟨rfl, hbmax, fun _ => ⟨rfl, rfl, rfl⟩, fun hn => (clash hcsz hn).elim, fun hn => (clash hcsz hn).elim⟩
    rw [afterHc_of_no_csz (s := latchFlags (s.withDesc h)) hcsz]
    rcases Bool.eq_false_or_eq_true (flg.getLsbD 0) with hdid | hdid
    · rw [afterCsize_of_did (s := latchFlags (s.withDesc h)) hdid]
      exact ⟨rfl, hbmax, fun hn => (clash hn hcsz).elim, fun _ _ => ⟨rfl, rfl, rfl⟩, fun _ hn => (clash hdid hn).elim⟩
    · have hlen : descLen flg = 2 := by
        rw [descLen, hcsz, hdid]
        rfl
      rw [afterCsize_of_no_did (s := latchFlags (s.withDesc h)) hdid, openBlocks_eq]
      refine ⟨rfl, hbmax, fun hn => (clash hn hcsz).elim, fun _ hn => (clash hn hdid).elim, fun _ _ => ⟨rfl, ?_, rfl⟩⟩
      show (w32 (s.int.ip.toNat + descLen flg + 1)).toNat = _
      rw [hlen] at hfit ⊢
      exact ip_add_toNat (s := s) (n := 3) hfit

end Sys2Proof.Machine
end

section
namespace Sys2Proof.Machine

/-! ### The blocks' elements (43_frame.md rules R170 to R174) -/

section Bsize
variable {s : State} {stored : Bool} {size : BitVec 31} (hip : s.int.ip.toNat + 4 ≤ s.opr.inLen.toNat)

theorem bsizeState_of_large (hlarge : s.int.bmax.toNat < size.toNat) :
    bsizeState stored size s = (s.takeSize stored size).raiseAtCursors .formatViolation := if_pos hlarge

variable (hmax : size.toNat ≤ s.int.bmax.toNat)
include hip hmax

theorem bsizeState_of_short (h : s.opr.inLen.toNat < s.int.ip.toNat + 4 + size.toNat + 4 * s.int.bck.toNat) :
    bsizeState stored size s = (s.takeSize stored size).raiseAtCursors .unexpectedEndOfInput := by
  have hat := ip_add_toNat hip
  refine (if_neg (Nat.not_lt.2 hmax)).trans (if_pos ?_)
  show s.opr.inLen.toNat - (w32 (s.int.ip.toNat + 4)).toNat < size.toNat + 4 * s.int.bck.toNat
  omega

variable (hfit : s.int.ip.toNat + 4 + size.toNat + 4 * s.int.bck.toNat ≤ s.opr.inLen.toNat)
include hfit

theorem bsizeState_of_present : bsizeState stored size s = if s.int.bck then
    { s.takeSize stored size with int := { (s.takeSize stored size).int with point := .bck } }
    else startPayload (s.takeSize stored size) := by
  have hat := ip_add_toNat hip
  refine (if_neg (Nat.not_lt.2 hmax)).trans (if_neg ?_)
  show ¬ s.opr.inLen.toNat - (w32 (s.int.ip.toNat + 4)).toNat < size.toNat + 4 * s.int.bck.toNat
  omega

theorem bsizeState_of_bck (hbck : s.int.bck = true) : bsizeState stored size s
    = { s.takeSize stored size with int := { (s.takeSize stored size).int with point := .bck } } :=
  (bsizeState_of_present hip hmax hfit).trans (if_pos hbck)

theorem bsizeState_of_no_bck (hbck : s.int.bck = false) :
    bsizeState stored size s = startPayload (s.takeSize stored size) :=
  (bsizeState_of_present hip hmax hfit).trans (if_neg (ne_true_of_eq_false hbck))

end Bsize

/-- Settles O38: the two refusals, and the block with a checksum. -/
theorem bsizeChecksThePayload : Obligations.BsizeChecksThePayload := by
  intro s stored size hip
  refine ⟨fun hlarge => ⟨_, rfl, ?_⟩, fun hmax hshort => ⟨_, rfl, ?_⟩, fun hmax hbck hfit => ?_⟩
  · rw [bsizeState_of_large hlarge]
    exact SameReader.raised_unwritten (u := s.takeSize stored size) rfl rfl rfl rfl _
  · rw [bsizeState_of_short hip hmax hshort]
    exact SameReader.raised_unwritten (u := s.takeSize stored size) rfl rfl rfl rfl _
  · refine congrArg Host.Outcome.next ?_
    exact bsizeState_of_bck hip hmax (by rw [hbck]; exact hfit) hbck

theorem bckState_of_right {s : State} {k : Word} (h : k = ck32 s.cfg (s.inBytes s.int.ip.toNat s.int.blkSize.toNat)) :
    bckState k s = startPayload s := if_neg (not_not.2 h)

theorem bckState_of_wrong {s : State} {k : Word} (h : k ≠ ck32 s.cfg (s.inBytes s.int.ip.toNat s.int.blkSize.toNat)) :
    bckState k s = s.raiseAtCursors .blockChecksumMismatch := if_pos h

/-- Settles O41: the error is raised where the reader stands. -/
theorem wrongBckStopsBeforeDecoding : Obligations.WrongBckStopsBeforeDecoding := by
  intro s k hk
  refine ⟨_, rfl, ?_⟩
  rw [bckState_of_wrong hk]
  exact raised_here _ s

/-! #### The payload (step B4) -/

section Stored
variable {s : State} (hstored : s.int.blkStored = true)
include hstored

theorem startPayload_of_no_room (h : s.opr.outCap.toNat < s.int.op.toNat + s.int.blkSize.toNat) :
    startPayload s = s.markStart.raiseAtCursors .insufficientOutputSpace :=
  (if_pos hstored).trans (if_pos h)

variable (hroom : s.int.op.toNat + s.int.blkSize.toNat ≤ s.opr.outCap.toNat)
include hroom

theorem startPayload_copies : startPayload s = closeBlock s.markStart.copyPayload :=
  (if_pos hstored).trans (if_neg (Nat.not_lt.2 hroom))

/-- A stored block copied, its bytes fed to the content checksum, the block counted (R172, R174). -/
theorem startPayload_of_room : startPayload s = { s with
    outb := s.outb.writeBytes s.int.op.toNat (s.inBytes s.int.ip.toNat s.int.blkSize.toNat)
    res := { s.res with blockIdx := s.res.blockIdx + 1#32 }
    int := { s.int with
      ip := w32 (s.int.ip.toNat + s.int.blkSize.toNat + 4 * s.int.bck.toNat)
      op := w32 (s.int.op.toNat + s.int.blkSize.toNat), bstart := s.int.op, point := .block
      cc := if s.int.cck then s.int.cc ++ s.inBytes s.int.ip.toNat s.int.blkSize.toNat else s.int.cc } } := by
  set u := s.markStart.copyPayload
  have hlen : u.int.op.toNat - u.int.bstart.toNat = s.int.blkSize.toNat := by
    show (w32 (s.int.op.toNat + s.int.blkSize.toNat)).toNat - s.int.op.toNat = _
    rw [toNat_w32 (hroom.trans_lt s.opr.outCap.isLt), Nat.add_sub_cancel_left]
  have hfed : u.outBytes u.int.bstart.toNat s.int.blkSize.toNat = s.inBytes s.int.ip.toNat s.int.blkSize.toNat := by
    have hread := s.outBytes_outWrite s.int.op.toNat (s.inBytes s.int.ip.toNat s.int.blkSize.toNat)
    rwa [State.inBytes_length] at hread
  rw [startPayload_copies hstored hroom, closeBlock_eq, hlen, hfed, ← w32_toNat_add (s.int.ip.toNat + s.int.blkSize.toNat)]
  rfl

end Stored

theorem startPayload_of_compressed {s : State} (h : s.int.blkStored = false) :
    startPayload s = tokenPayload s.markStart := if_neg (ne_true_of_eq_false h)

theorem tokenPayload_limBlk (s : State) : (tokenPayload s).int.limBlk.toNat = s.int.op.toNat + s.int.bmax.toNat := by
  have hop := s.int.op.isLt
  have hbmax := s.int.bmax.isLt
  exact (BitVec.toNat_ofNat ..).trans (Nat.mod_eq_of_lt (by omega))

/-- The reader at a block's payload, `n` bytes into the input (steps B2, B4). -/
def State.atPayload (stored : Bool) (size : BitVec 31) (n : Nat) (s : State) : State :=
  { s with int := { s.int with ip := w32 n, blkStored := stored, blkSize := size } }

theorem takeSize_eq (stored : Bool) (size : BitVec 31) (s : State) :
    s.takeSize stored size = s.atPayload stored size (s.int.ip.toNat + 4) := rfl

theorem atPayload_self {s : State} {stored : Bool} {size : BitVec 31} (hstored : s.int.blkStored = stored)
    (hsize : s.int.blkSize = size) : s.atPayload stored size s.int.ip.toNat = s := by
  rw [State.atPayload, w32_toNat, ← hstored, ← hsize]

section Payload
variable {s : State} {stored : Bool} {size : BitVec 31} {k : Word} {n : Nat}

/-- Without a block checksum the payload follows its size word (step B3). -/
theorem exec_bsize_of_no_bck (hmax : size.toNat ≤ s.int.bmax.toNat) (hbck : s.int.bck = false)
    (hn : n = s.int.ip.toNat + 4) (hfit : n + size.toNat ≤ s.opr.inLen.toNat) :
    exec (.bsize stored size) s = .next (startPayload (s.atPayload stored size n)) := by
  subst hn
  exact congrArg Host.Outcome.next (bsizeState_of_no_bck (by omega) hmax (by rw [hbck]; exact hfit) hbck)

/-- With one the payload is taken when the checksum is right (step B3). -/
theorem exec_bck_of_right (hn : n = s.int.ip.toNat) (hstored : s.int.blkStored = stored) (hsize : s.int.blkSize = size)
    (hk : k = ck32 s.cfg (s.inBytes n size.toNat)) :
    exec (.bck k) s = .next (startPayload (s.atPayload stored size n)) := by
  subst hn
  rw [atPayload_self hstored hsize]
  subst hsize
  exact congrArg Host.Outcome.next (bckState_of_right hk)

end Payload

/-- Settles O39: a stored payload, at its two places. -/
theorem storedBlockIsCopied : Obligations.StoredBlockIsCopied := by
  intro s size k at0 hmax copies
  have payload : ∀ i, at0 ≤ s.opr.inLen.toNat → exec i s = .next (startPayload (s.atPayload true size at0)) →
      copies i := by
    intro i hat hexec
    have hip : (w32 at0).toNat = at0 := toNat_w32 (hat.trans_lt s.opr.inLen.isLt)
    have hlen : (s.inBytes at0 size.toNat).length = size.toNat := State.inBytes_length ..
    refine ⟨fun hroom => ⟨_, hexec, ?_⟩, fun hno => ⟨_, hexec, ?_⟩⟩
    · rw [startPayload_of_room (s := s.atPayload true size at0) rfl hroom]
      show _ ∧ (s.outWrite _ (s.inBytes (w32 at0).toNat size.toNat)).outBytes _ _ = _
        ∧ ∀ a, _ → (s.outb.writeBytes _ (s.inBytes (w32 at0).toNat size.toNat)).read a = _
      have hread := s.outBytes_outWrite s.int.op.toNat (s.inBytes at0 size.toNat)
      rw [hlen] at hread
      refine ⟨?_, by rw [hip]; exact hread, fun a ha => ?_⟩
      · have hcc : s.inBytes at0 size.toNat = s.inBytes (w32 at0).toNat size.toNat := by rw [hip]
        have hend : at0 + size.toNat = (w32 at0).toNat + size.toNat := by rw [hip]
        rw [hcc, hend]
        rfl
      · rw [hip]
        exact Memory.read_writeBytes_outside _ (by rw [hlen]; exact ha)
    · rw [startPayload_of_no_room (s := s.atPayload true size at0) rfl hno]
      exact SameReader.raised_unwritten (u := (s.atPayload true size at0).markStart) rfl rfl rfl rfl _
  exact ⟨fun hbck hat hfit => payload _ (by omega) (exec_bsize_of_no_bck hmax hbck hat hfit),
    fun _ hat hfit hstored hsize hk => payload _ (by omega) (exec_bck_of_right hat hstored hsize hk)⟩

/-- Settles O40: a compressed payload, at its two places. -/
theorem compressedBlockStartsTheDecoder : Obligations.CompressedBlockStartsTheDecoder := by
  intro s size k at0 hmax starts
  have payload : ∀ i, at0 ≤ s.opr.inLen.toNat → exec i s = .next (startPayload (s.atPayload false size at0)) →
      starts i := by
    intro i hat hexec
    have hip : (w32 at0).toNat = at0 := toNat_w32 (hat.trans_lt s.opr.inLen.isLt)
    refine ⟨_, hexec, ?_⟩
    rw [startPayload_of_compressed (s := s.atPayload false size at0) rfl]
    refine ⟨?_, ?_⟩
    · have hend : w32 (at0 + size.toNat) = w32 ((w32 at0).toNat + size.toNat) := by rw [hip]
      rw [hend]
      rfl
    · exact tokenPayload_limBlk (s.atPayload false size at0).markStart
  exact ⟨fun hbck hat hfit => payload _ (by omega) (exec_bsize_of_no_bck hmax hbck hat hfit),
    fun _ hat hfit hstored hsize hk => payload _ (by omega) (exec_bck_of_right hat hstored hsize hk)⟩

/-! ### The trailer's elements (43_frame.md rules R175, R177) -/

/-- The content size that the header has given (R77). -/
def State.contentSize (s : State) : Nat := s.res.csizeLo.toNat + 2 ^ 32 * s.res.csizeHi.toNat

theorem closeFrame_of_wrong {s : State} (hcsz : s.int.csz = true) (hne : s.contentSize ≠ s.int.op.toNat) :
    closeFrame s = s.raiseAtCursors .outputSizeMismatch := if_pos ⟨hcsz, hne⟩

theorem closeFrame_of_right {s : State} (h : s.int.csz = false ∨ s.contentSize = s.int.op.toNat) :
    closeFrame s = { s with status := { s.status with fsm := .finished } }.finish s.int.op s.int.ip :=
  if_neg fun ⟨hcsz, hne⟩ => h.elim (fun hf => Bool.false_ne_true (hf.symm.trans hcsz)) hne

theorem endmarkState_of_cck {s : State} (h : s.int.cck = true) :
    endmarkState s = { s.takeEndmark with int := { s.takeEndmark.int with point := .cck } } := if_pos h

theorem endmarkState_of_no_cck {s : State} (h : s.int.cck = false) : endmarkState s = closeFrame s.takeEndmark :=
  if_neg (ne_true_of_eq_false h)

theorem cckState_of_wrong {s : State} {k : Word} (h : k ≠ ck32 s.cfg s.int.cc) :
    cckState k s = s.withCksum.raiseAtCursors .contentChecksumMismatch := if_pos h

theorem cckState_of_right {s : State} {k : Word} (h : k = ck32 s.cfg s.int.cc) :
    cckState k s = closeFrame (s.withCksum.skip 4) := if_neg (not_not.2 h)

/-- The end of a frame without error, no byte written since `s`. -/
theorem closeFrame_ended {s u : State} {inPos : Nat} (hsame : SameReader s u) (hout : u.outb = s.outb)
    (hop : u.int.op = s.int.op) (hip : u.int.ip = w32 inPos) (hsize : u.int.csz = false ∨ u.contentSize = u.int.op.toNat) :
    Ended { u.status with fsm := .finished, state := .done } u.err u.res s.int.op.toNat s.int.op.toNat inPos s
      (closeFrame u) := by
  rw [closeFrame_of_right hsize]
  exact SameReader.finished (s := s) (u := { u with status := { u.status with fsm := .finished } }) (hsame.trans rfl)
    (congrArg BitVec.toNat hop) hip (Nat.le_refl _) fun a _ => congrArg (fun m => Memory.read m a) hout

/-- Settles O42: the EndMark taken, and the end of the frame where no content checksum follows. -/
theorem endmarkEndsTheBlocks : Obligations.EndmarkEndsTheBlocks := by
  intro s hip s1 size
  refine ⟨fun hcck => congrArg Host.Outcome.next (endmarkState_of_cck hcck), fun hcck hcsz hne => ⟨_, rfl, ?_⟩,
    fun hcck hsize => ⟨_, rfl, ?_⟩⟩
  · rw [endmarkState_of_no_cck hcck, closeFrame_of_wrong (s := s.takeEndmark) hcsz hne]
    exact SameReader.raised_unwritten (s := s1) (u := s.takeEndmark) rfl rfl rfl rfl _
  · rw [endmarkState_of_no_cck hcck]
    exact closeFrame_ended (u := s.takeEndmark) rfl rfl rfl rfl hsize

/-- Settles O43: the comparison of the checksum, then the end of the frame. -/
theorem cckEndsTheFrame : Obligations.CckEndsTheFrame := by
  intro s k hip seen size
  refine ⟨fun hwrong => ⟨_, rfl, ?_⟩, fun hright hcsz hne => ⟨_, rfl, ?_⟩, fun hright hsize => ⟨_, rfl, ?_⟩⟩
  · rw [cckState_of_wrong hwrong]
    exact SameReader.raised_unwritten (u := s.withCksum) rfl rfl rfl (w32_toNat _).symm _
  · rw [cckState_of_right hright, closeFrame_of_wrong (s := s.withCksum.skip 4) hcsz hne]
    exact SameReader.raised_unwritten (u := s.withCksum.skip 4) rfl rfl rfl rfl _
  · rw [cckState_of_right hright]
    exact closeFrame_ended (u := s.withCksum.skip 4) rfl rfl rfl rfl hsize

end Sys2Proof.Machine
end

section
namespace Sys2Proof.Machine

/-! ### Runs of the engine -/

/-- In `j` steps of the engine `s` becomes `u`. -/
def Runs (j : Nat) (s u : State) : Prop := ∀ k, runEngine (j + k) s = runEngine k u

theorem Runs.refl (s : State) : Runs 0 s s := fun k => by rw [Nat.zero_add]

theorem Runs.trans {i j : Nat} {s t u : State} (h : Runs i s t) (h' : Runs j t u) : Runs (i + j) s u := fun k => by
  rw [Nat.add_assoc, h, h']

theorem runs_step {s : State} (hb : s.busy = true) : Runs 1 s (engineStep s) := fun k => by
  rw [Nat.add_comm, runEngine_succ, if_pos hb]

theorem runs_element {s : State} {site : Site} (hb : s.busy = true) (hp : s.int.point.site = some site) :
    Runs 1 s (readElement site s) :=
  engineStep_element hp ▸ runs_step hb

/-- A command that has ended within the steps of its fuel has run to its end. -/
theorem runCommand_of_runs {c : Cmd} {j : Nat} {s t : State} (hb : s.busy = false) (h : Runs j (s.startCmd c) t)
    (hj : j ≤ s.fuel) (hend : t.busy = false) : runCommand c s = t := by
  obtain ⟨k, hk⟩ := Nat.exists_eq_add_of_le hj
  rw [runCommand, hb, if_neg Bool.false_ne_true, State.runToEnd]
  show runEngine s.fuel (s.startCmd c) = t
  rw [hk, h, runEngine_of_not_busy k hend]

/-- What a command leaves as it was is what stood there when it started. -/
theorem Ended.of_startCmd {c : Cmd} {st : Status} {e : ErrCode} {r : Results} {lo n p : Nat} {s t : State}
    (h : Ended st e r lo n p (s.startCmd c) t) : Ended st e r lo n p s t := h

/-! ### The elements of a header, read (43_frame.md rules R162, R165 to R167) -/

section Reads
variable {s : State}

/-- Where the input ends before an element of a frame, the reader stops there (R162, `need`). -/
theorem readElement_of_short {site : Site} (htok : site ≠ .token)
    (hshort : s.opr.inLen.toNat < s.int.fetchAt site + siteNeed site) :
    readElement site s = s.raiseAtCursors .unexpectedEndOfInput := by
  have hfetch : s.fetchBytes site = [] := by
    by_contra hne
    exact absurd (fetchBytes_ne_nil htok hne) (Nat.not_le.2 hshort)
  have hdecode : decode site [] = .error .short := by
    cases site with
    | token => exact absurd rfl htok
    | _ => rfl
  rw [readElement, hfetch, hdecode]
  rfl

theorem inBytes_succ (s : State) (a n : Nat) : s.inBytes a (n + 1) = s.inByte a :: s.inBytes (a + 1) n := rfl

/-- Four bytes are the magic number or not (R74). -/
theorem decode_magic {bs : List Byte} (h : bs.length = 4) :
    decode .magic bs = if leNat bs = 0x184D2204 then .ok .magic else .error .badMagic := by
  have htake : bs.take 4 = bs := List.take_of_length_le h.le
  have hiff : bs = magicBytes ↔ leNat bs = 0x184D2204 := by
    refine ⟨fun hbs => hbs ▸ rfl, fun hval => ?_⟩
    rw [← leBytes_leNat bs, h, hval]
    rfl
  rw [decode, if_neg (Nat.not_lt.2 h.ge), htake]
  exact if_congr hiff rfl rfl

theorem readElement_magic (h : s.int.ip.toNat + 4 ≤ s.opr.inLen.toNat) : readElement .magic s =
    if leNat (s.inBytes s.int.ip.toNat 4) = 0x184D2204 then magicState s else s.raiseAtCursors .invalidMagicNumber := by
  rw [readElement, fetchBytes_of_present (s := s) (site := .magic) nofun h]
  show (match decode .magic (s.inBytes s.int.ip.toNat 4) with | .ok i => _ | .error r => _) = _
  rw [decode_magic (s.inBytes_length _ 4)]
  split_ifs <;> rfl

/-- The FLG byte is latched, whatever it is (R165). -/
theorem readElement_flg (h : s.int.ip.toNat + 3 ≤ s.opr.inLen.toNat) :
    readElement .flg s = flgState (s.inByte s.int.ip.toNat) s := by
  rw [readElement, fetchBytes_of_present (s := s) (site := .flg) nofun h]
  show (match decodeFlg (s.inByte s.int.ip.toNat) with | .ok i => _ | .error r => _) = _
  by_cases hv : (s.inByte s.int.ip.toNat).toNat / 64 = 1
  · rw [decodeFlg, if_pos hv]
    exact congrArg (flgState · s) (flgByte_of_bits _ hv)
  · rw [decodeFlg, if_neg hv]
    rfl

/-- The BD byte is latched, whatever it is (R165). -/
theorem readElement_bd (h : s.int.ip.toNat + 1 + 1 ≤ s.opr.inLen.toNat) :
    readElement .bd s = bdState (s.inByte (s.int.ip.toNat + 1)) s := by
  rw [readElement, fetchBytes_of_present (s := s) (site := .bd) nofun h]
  show (match decodeBd (s.inByte (s.int.ip.toNat + 1)) with | .ok i => _ | .error r => _) = _
  cases hd : decodeBd (s.inByte (s.int.ip.toNat + 1)) with
  | ok i =>
    have henc := encode_of_decodeBd hd
    obtain ⟨-, -, rfl⟩ := decodeBd_ok hd
    exact congrArg (bdState · s) (List.cons.inj henc).1
  | error r =>
    unfold decodeBd at hd
    split_ifs at hd
    cases hd
    rfl

theorem readElement_hc (h : s.int.ip.toNat + descLen s.int.flg + 1 ≤ s.opr.inLen.toNat) :
    readElement .hc s = hcState (s.inByte (s.int.ip.toNat + descLen s.int.flg)) s := by
  rw [readElement, fetchBytes_of_present (s := s) (site := .hc) nofun h]
  rfl

end Reads

/-! ### DFRAME up to its header's checksum -/

/-- DFRAME at its magic number (R162 step H1). -/
def State.atMagic (s : State) : State := enterDframe (s.startCmd .dframe)

/-- DFRAME behind a right magic number (step H2). -/
def State.atDescriptor (s : State) : State := magicState s.atMagic

/-- DFRAME with FLG and BD latched. -/
def State.atHc (s : State) : State :=
  { s.atDescriptor with int := { s.atDescriptor.int with flg := s.inByte 4, bd := s.inByte 5, point := .hc } }

section Header
variable {s : State}

theorem runs_atMagic (s : State) : Runs 1 (s.startCmd .dframe) s.atMagic := runs_step rfl

/-- A run of DFRAME that ends, before it has written a byte, in an error at its cursors. -/
theorem exec_dframe_of_raised {j n : Nat} {u : State} {e : ErrCode} (hb : s.busy = false)
    (hruns : Runs j (s.startCmd .dframe) (u.raiseAtCursors e)) (hj : j ≤ 16) (hsame : SameReader (s.startCmd .dframe) u)
    (hout : u.outb = s.outb) (hop : u.int.op = 0#32) (hip : u.int.ip = w32 n) (hst : u.status = s.atMagic.status) :
    ∃ t, exec .dframe s = .next t
      ∧ Ended { state := .error, fsm := .failed, fsmAt := .header, lastCmd := 0x05#8 } e u.res 0 0 n s t := by
  have hend := hsame.raised (lo := 0) (hi := 0) (by rw [hop]; rfl) hip (Nat.le_refl _) (fun a _ => by rw [hout]; rfl) e
  have hdone : (u.raiseAtCursors e).busy = false := by
    rw [State.busy, State.raiseAtCursors_status, Status.failed_state]
    rfl
  refine ⟨_, congrArg Host.Outcome.next (runCommand_of_runs hb hruns (hj.trans (Nat.le_add_left ..)) hdone), ?_⟩
  rw [hst] at hend
  exact hend.of_startCmd

theorem runs_magic (s : State) : Runs 2 (s.startCmd .dframe) (readElement .magic s.atMagic) :=
  (runs_atMagic s).trans (runs_element rfl rfl)

theorem readElement_atMagic (hlen : 4 ≤ s.opr.inLen.toNat) : readElement .magic s.atMagic =
    if leNat (s.inBytes 0 4) = 0x184D2204 then s.atDescriptor else s.atMagic.raiseAtCursors .invalidMagicNumber :=
  readElement_magic (s := s.atMagic) hlen

/-- Settles O34: the first element read is the magic number. -/
theorem dframeChecksMagic : Obligations.DframeChecksMagic := by
  intro s hb failed
  have hread := runs_magic s
  refine ⟨fun hshort => ?_, fun hlen hne => ?_⟩
  · rw [readElement_of_short (s := s.atMagic) (site := .magic) nofun hshort] at hread
    exact exec_dframe_of_raised hb hread (by decide) rfl rfl rfl rfl rfl
  · rw [readElement_atMagic hlen, if_neg hne] at hread
    exact exec_dframe_of_raised hb hread (by decide) rfl rfl rfl rfl rfl

variable (hmagic : leNat (s.inBytes 0 4) = 0x184D2204)
include hmagic

theorem runs_atDescriptor (hlen : 4 ≤ s.opr.inLen.toNat) : Runs 2 (s.startCmd .dframe) s.atDescriptor := by
  have hread := runs_magic s
  rwa [readElement_atMagic hlen, if_pos hmagic] at hread

theorem runs_bd (hlen : 7 ≤ s.opr.inLen.toNat) :
    Runs 4 (s.startCmd .dframe) (bdState (s.inByte 5) (flgState (s.inByte 4) s.atDescriptor)) := by
  have hflg : readElement .flg s.atDescriptor = flgState (s.inByte 4) s.atDescriptor := readElement_flg (s := s.atDescriptor) hlen
  have hbd : readElement .bd (flgState (s.inByte 4) s.atDescriptor)
      = bdState (s.inByte 5) (flgState (s.inByte 4) s.atDescriptor) :=
    readElement_bd (s := flgState (s.inByte 4) s.atDescriptor) (show 6 ≤ s.opr.inLen.toNat by omega)
  have hread := (runs_atDescriptor hmagic (by omega)).trans (runs_element rfl rfl)
  rw [hflg] at hread
  have hread' := hread.trans (runs_element rfl rfl)
  rwa [hbd] at hread'

theorem runs_hc (hlen : 4 + descLen (s.inByte 4) + 1 ≤ s.opr.inLen.toNat) :
    Runs 5 (s.startCmd .dframe) (hcState (s.inByte (4 + descLen (s.inByte 4))) s.atHc) := by
  have hread := runs_bd hmagic (le_trans (by rw [descLen]; omega) hlen)
  have hbd : bdState (s.inByte 5) (flgState (s.inByte 4) s.atDescriptor) = s.atHc := bdState_of_room hlen
  have hhc : readElement .hc s.atHc = hcState (s.inByte (4 + descLen (s.inByte 4))) s.atHc := readElement_hc (s := s.atHc) hlen
  rw [hbd] at hread
  have hread' := hread.trans (runs_element rfl rfl)
  rwa [hhc] at hread'

end Header

theorem getLsbD_eq_true_iff (b : Byte) (i : Nat) : b.getLsbD i = true ↔ b.toNat / 2 ^ i % 2 = 1 := by
  rw [← getLsbD_toNat]
  cases b.getLsbD i <;> simp

/-- Settles O35: the header's presence at FLG and BD, then HC. -/
theorem dframeChecksHeader : Obligations.DframeChecksHeader := by
  intro s hb hlen hmagic flg bd dlen hc seen failed
  have hdlen : descLen flg = dlen := descLen_eq flg
  refine ⟨fun hshort => ?_, fun hfit => ?_⟩
  · by_cases h7 : s.opr.inLen.toNat < 7
    · have hread := (runs_atDescriptor hmagic hlen).trans (runs_element rfl rfl)
      rw [readElement_of_short (s := s.atDescriptor) (site := .flg) nofun h7] at hread
      exact exec_dframe_of_raised hb hread (by decide) rfl rfl rfl rfl rfl
    · have hread := runs_bd hmagic (Nat.le_of_not_lt h7)
      rw [bdState_of_short (s := flgState flg s.atDescriptor) hlen (show s.opr.inLen.toNat < 4 + descLen flg + 1 by omega)] at hread
      exact exec_dframe_of_raised hb hread (by decide) rfl rfl rfl rfl rfl
  · have hread := runs_hc hmagic (show 4 + descLen flg + 1 ≤ s.opr.inLen.toNat by omega)
    have hcat : s.inByte (4 + descLen flg) = hc := by rw [hdlen]
    have hright : hc.toNat = (ck32 s.cfg (s.inBytes 4 dlen)).toNat / 2 ^ 8 % 256
        ↔ hc = headerByte s.cfg (s.inBytes 4 (descLen flg)) := by
      rw [hdlen, ← BitVec.toNat_inj, headerByte_toNat]
    rw [hcat] at hread
    refine ⟨fun hwrong => ?_, fun hr hill => ?_⟩
    · rw [hcState_of_wrong (s := s.atHc) (mt hright.2 hwrong)] at hread
      exact exec_dframe_of_raised hb hread (by decide) rfl rfl rfl rfl rfl
    · have hill' : descIllegal flg bd = true := by
        have hbd := bd.isLt
        rw [descIllegal_iff, getLsbD_eq_true_iff, getLsbD_eq_true_iff]
        omega
      rw [hcState_of_illegal (s := s.atHc) (hright.1 hr) hill'] at hread
      exact exec_dframe_of_raised hb hread (by decide) rfl rfl rfl rfl rfl

end Sys2Proof.Machine
end

section
namespace Sys2Proof.Machine

/-! ### The input that the frame reader has not read -/

/-- A part of a range of `IN`. -/
theorem inBytes_part {s : State} {a n : Nat} {xs ys zs : List Byte} (h : s.inBytes a n = xs ++ (ys ++ zs)) :
    s.inBytes (a + xs.length) ys.length = ys := by
  have hn : n = xs.length + (ys.length + zs.length) := by
    rw [← s.inBytes_length a n, h, List.length_append, List.length_append]
  rw [hn, inBytes_append, inBytes_append] at h
  have hrest := (List.append_inj h (State.inBytes_length ..)).2
  exact (List.append_inj hrest (State.inBytes_length ..)).1

/-- The input from `ip` on is these bytes. -/
def State.Unread (s : State) (bs : List Byte) : Prop :=
  s.int.ip.toNat + bs.length = s.opr.inLen.toNat ∧ s.inBytes s.int.ip.toNat bs.length = bs

section Unread
variable {s u : State} {xs ys : List Byte}

theorem State.Unread.head (h : s.Unread (xs ++ ys)) :
    s.inBytes s.int.ip.toNat xs.length = xs ∧ s.int.ip.toNat + xs.length ≤ s.opr.inLen.toNat := by
  obtain ⟨hlen, hbytes⟩ := h
  rw [List.length_append] at hlen
  exact ⟨inBytes_part (xs := []) hbytes, by omega⟩

theorem State.Unread.tail (h : s.Unread (xs ++ ys)) (hsame : SameReader s u)
    (hip : u.int.ip.toNat = s.int.ip.toNat + xs.length) : u.Unread ys := by
  obtain ⟨hlen, hbytes⟩ := h
  have hys : s.inBytes s.int.ip.toNat (xs ++ ys).length = xs ++ (ys ++ []) := by rw [List.append_nil, hbytes]
  rw [List.length_append] at hlen
  rw [State.Unread, hsame.opr, hsame.inBytes, hip]
  exact ⟨by omega, inBytes_part hys⟩

/-- An element whose encoding stands where the reader reads is taken (R162). -/
theorem runs_encoding {i : Instr} (hb : s.busy = true) (hp : s.int.point.site = some i.site) (hwf : i.wf = true)
    (hcmd : i.site ≠ .cmd) (htok : i.site ≠ .token) (henc : s.inBytes (s.int.fetchAt i.site) i.size = encode i)
    (hneed : s.int.fetchAt i.site + siteNeed i.site ≤ s.opr.inLen.toNat) : Runs 1 s (elementState i s) := by
  obtain ⟨rest, hfetch, hlast⟩ := fetchBytes_of_encoding hcmd henc (absurd · htok)
    (fun ⟨lit, mc, he⟩ => absurd (he ▸ rfl) htok) fun _ => hneed
  have hruns := runs_element hb hp
  rwa [readElement, hfetch, decode_encode i rest hwf hlast] at hruns

end Unread

/-! ### DFRAME from the header's checksum to the blocks -/

/-- The dictionary ID recorded, where the header announces one (R168). -/
def State.withDictId (d : Word) (s : State) : State :=
  { s with res := { s.res with dictId := if s.int.did then d else s.res.dictId } }

/-- The header's optional fields recorded, where its flags announce them (step H4). -/
def State.withFields (h : Header) (s : State) : State :=
  { s with res := { s.res with
      csizeLo := if s.int.csz then w32 h.csize.toNat else s.res.csizeLo
      csizeHi := if s.int.csz then w32 (h.csize.toNat / 2 ^ 32) else s.res.csizeHi
      dictId := if s.int.did then h.dictId else s.res.dictId } }

theorem withFields_of_no_csz {s : State} (h : Header) (hcsz : s.int.csz = false) :
    s.withFields h = s.withDictId h.dictId := by
  rw [State.withFields, hcsz]
  rfl

theorem withFields_of_csz {s : State} (h : Header) (hcsz : s.int.csz = true) :
    s.withFields h = (s.withCsize h.csize).withDictId h.dictId := by
  have hlow : w32 h.csize.toNat = w32 (h.csize.toNat % 2 ^ 32) :=
    BitVec.eq_of_toNat_eq (by rw [BitVec.toNat_ofNat, BitVec.toNat_ofNat, Nat.mod_mod])
  rw [State.withFields, hcsz, hlow]
  rfl

/-- The reader at another point of its pseudocode. -/
def State.atPoint (p : Point) (s : State) : State := { s with int := { s.int with point := p } }

section Fields
variable {s : State}

/-- The dictionary ID read, where there is one; then the header ends. -/
theorem runs_afterCsize (d : Word) (hb : s.busy = true) (hid : s.int.did = true →
      s.inBytes (s.int.ip.toNat + 2 + 8 * s.int.csz.toNat) 4 = encode (.dictid d)
      ∧ s.int.ip.toNat + 2 + 8 * s.int.csz.toNat + 4 ≤ s.opr.inLen.toNat) :
    ∃ j, j ≤ 1 ∧ Runs j (afterCsize s) (openBlocks (s.withDictId d)) := by
  cases hdid : s.int.did with
  | false =>
    have hsame : s.withDictId d = s := by
      rw [State.withDictId, hdid]
      rfl
    rw [afterCsize_of_no_did hdid, hsame]
    exact ⟨0, Nat.zero_le _, Runs.refl _⟩
  | true =>
    obtain ⟨henc, hfit⟩ := hid hdid
    rw [afterCsize_of_did hdid, State.withDictId, hdid]
    exact ⟨1, Nat.le_refl _,
      runs_encoding (s := s.atPoint .dictid) (i := .dictid d) hb rfl rfl nofun nofun henc hfit⟩

/-- The fields between BD and HC read, where there are any (step H4). -/
theorem runs_afterHc (h : Header) (hb : s.busy = true)
    (hsize : s.int.csz = true → s.inBytes (s.int.ip.toNat + 2) 8 = encode (.csize h.csize)
      ∧ s.int.ip.toNat + 2 + 8 ≤ s.opr.inLen.toNat)
    (hid : s.int.did = true → s.inBytes (s.int.ip.toNat + 2 + 8 * s.int.csz.toNat) 4 = encode (.dictid h.dictId)
      ∧ s.int.ip.toNat + 2 + 8 * s.int.csz.toNat + 4 ≤ s.opr.inLen.toNat) :
    ∃ j, j ≤ 2 ∧ Runs j (afterHc s) (openBlocks (s.withFields h)) := by
  cases hcsz : s.int.csz with
  | false =>
    obtain ⟨j, hj, hruns⟩ := runs_afterCsize h.dictId hb hid
    rw [afterHc_of_no_csz hcsz, withFields_of_no_csz h hcsz]
    exact ⟨j, by omega, hruns⟩
  | true =>
    obtain ⟨henc, hfit⟩ := hsize hcsz
    obtain ⟨j, hj, hruns⟩ := runs_afterCsize (s := (s.atPoint .csize).withCsize h.csize) h.dictId hb hid
    rw [afterHc_of_csz hcsz, withFields_of_csz h hcsz]
    exact ⟨1 + j, by omega, Runs.trans
      (runs_encoding (s := s.atPoint .csize) (i := .csize h.csize) hb rfl rfl nofun nofun henc hfit) hruns⟩

end Fields

/-! ### A legal header (30_encoding.md rules R74 to R79) -/

/-- The FLG byte of a header (R75). -/
def Header.flg (h : Header) : Byte := flgByte h.indep h.bck h.csz h.cck false h.did

/-- The content size as it stands in the descriptor. -/
def Header.csizeField (h : Header) : List Byte := if h.csz then encode (.csize h.csize) else []

/-- The dictionary ID as it stands in the descriptor. -/
def Header.dictidField (h : Header) : List Byte := if h.did then encode (.dictid h.dictId) else []

theorem Header.csizeField_length (h : Header) : h.csizeField.length = 8 * h.csz.toNat := by
  rw [Header.csizeField]
  cases h.csz
  · rfl
  · exact leBytes_length 8 _

theorem Header.dictidField_length (h : Header) : h.dictidField.length = 4 * h.did.toNat := by
  rw [Header.dictidField]
  cases h.did
  · rfl
  · exact leBytes_length 4 _

theorem Header.descriptor_eq (h : Header) : h.descriptor = [h.flg, bdByte h.code] ++ (h.csizeField ++ h.dictidField) :=
  List.append_assoc ..

theorem Header.descriptor_length (h : Header) : h.descriptor.length = 2 + 8 * h.csz.toNat + 4 * h.did.toNat := by
  rw [h.descriptor_eq, List.length_append, List.length_append, h.csizeField_length, h.dictidField_length, ← Nat.add_assoc]
  rfl

theorem Header.descLen_flg (h : Header) : descLen h.flg = h.descriptor.length := by
  obtain ⟨-, -, -, hcsz, -, -, hdid⟩ := flgByte_fields h.indep h.bck h.csz h.cck false h.did
  rw [h.descriptor_length, descLen, Header.flg, hcsz, hdid]

theorem descIllegal_of_legal (indep bck csz cck did : Bool) {code : BitVec 3} (hcode : 4 ≤ code.toNat) :
    descIllegal (flgByte indep bck csz cck false did) (bdByte code) = false := by
  revert indep bck csz cck did code
  decide

/-- The input begins with this header (R73). -/
structure HeaderIn (h : Header) (s : State) : Prop where
  fit : 4 + h.descriptor.length + 1 ≤ s.opr.inLen.toNat
  magic : leNat (s.inBytes 0 4) = 0x184D2204
  flg : s.inByte 4 = h.flg
  bd : s.inByte 5 = bdByte h.code
  descriptor : s.inBytes 4 h.descriptor.length = h.descriptor
  hc : s.inByte (4 + h.descriptor.length) = headerByte s.cfg h.descriptor
  csize : h.csz = true → s.inBytes 6 8 = encode (.csize h.csize)
  dictid : h.did = true → s.inBytes (6 + 8 * h.csz.toNat) 4 = encode (.dictid h.dictId)

theorem headerIn_of_hasInput {h : Header} {s : State} {rest : List Byte} (hin : HasInput s (h.bytes s.cfg ++ rest)) :
    HeaderIn h s := by
  obtain ⟨hlen, hbytes⟩ := hin
  have hall : s.inBytes 0 (h.bytes s.cfg ++ rest).length = magicBytes ++ (h.descriptor ++ ([headerByte s.cfg h.descriptor] ++ rest)) := by
    rw [hbytes, Header.bytes, List.append_assoc, List.append_assoc]
    rfl
  have hmagic : s.inBytes 0 4 = magicBytes := inBytes_part (a := 0) (xs := []) (ys := magicBytes) hall
  have hdesc : s.inBytes 4 h.descriptor.length = h.descriptor := inBytes_part (a := 0) (xs := magicBytes) hall
  have hfirst : s.inBytes 4 2 = [h.flg, bdByte h.code] :=
    inBytes_part (xs := []) (ys := [h.flg, bdByte h.code]) (hdesc.trans h.descriptor_eq)
  have hhc : s.inBytes (4 + h.descriptor.length) 1 = [headerByte s.cfg h.descriptor] := by
    have hpart := inBytes_part (a := 0) (xs := magicBytes ++ h.descriptor) (ys := [headerByte s.cfg h.descriptor])
      (hall.trans (List.append_assoc ..).symm)
    rw [List.length_append, Nat.zero_add] at hpart
    exact hpart
  rw [← s.inBytes_length 0 (h.bytes s.cfg ++ rest).length, hall, List.length_append, List.length_append,
    List.length_append] at hlen
  refine ⟨?_, by rw [hmagic]; rfl, (List.cons.inj hfirst).1, (List.cons.inj (List.cons.inj hfirst).2).1, hdesc,
    (List.cons.inj hhc).1, fun hcsz => ?_, fun hdid => ?_⟩
  · have hmagic4 : magicBytes.length = 4 := rfl
    have hhc1 : [headerByte s.cfg h.descriptor].length = 1 := rfl
    omega
  · have hfield : h.csizeField = encode (.csize h.csize) := if_pos hcsz
    have hpart := inBytes_part (a := 4) (xs := [h.flg, bdByte h.code]) (ys := h.csizeField) (hdesc.trans h.descriptor_eq)
    rwa [h.csizeField_length, hcsz, hfield] at hpart
  · have hfield : h.dictidField = encode (.dictid h.dictId) := if_pos hdid
    have hsplit : h.descriptor = ([h.flg, bdByte h.code] ++ h.csizeField) ++ (h.dictidField ++ []) := by
      rw [List.append_nil, h.descriptor_eq, List.append_assoc]
    have hpart := inBytes_part (a := 4) (hdesc.trans hsplit)
    rwa [List.length_append, h.csizeField_length, h.dictidField_length, hdid, hfield, ← Nat.add_assoc] at hpart

/-- DFRAME at the first block of a frame with this header. -/
def State.afterHeader (h : Header) (s : State) : State :=
  openBlocks ((latchFlags (s.atHc.withDesc (headerByte s.cfg h.descriptor))).withFields h)

section LegalHeader
variable {h : Header} {s : State} (hin : HeaderIn h s)
include hin

/-- The flags latched are the header's (R75). -/
theorem latchFlags_atHc (hc : Byte) : let u := latchFlags (s.atHc.withDesc hc)
    u.int.indep = h.indep ∧ u.int.bck = h.bck ∧ u.int.csz = h.csz ∧ u.int.cck = h.cck ∧ u.int.did = h.did := by
  obtain ⟨-, hindep, hbck, hcsz, hcck, -, hdid⟩ := flgByte_fields h.indep h.bck h.csz h.cck false h.did
  refine ⟨?_, ?_, ?_, ?_, ?_⟩ <;> show BitVec.getLsbD (s.inByte 4) _ = _ <;> rw [hin.flg, Header.flg] <;> assumption

/-- DFRAME reads a legal header to its end (R162 steps H1 to H4). -/
theorem runs_header (hcode : 4 ≤ h.code.toNat) : ∃ j, j ≤ 7 ∧ Runs j (s.startCmd .dframe) (s.afterHeader h) := by
  have hfit := hin.fit
  have hdlen := h.descriptor_length
  have hlen : descLen (s.inByte 4) = h.descriptor.length := by rw [hin.flg, h.descLen_flg]
  have hread := runs_hc hin.magic (by rw [hlen]; exact hfit)
  have hright : headerByte s.cfg h.descriptor
      = headerByte s.atHc.cfg (s.atHc.inBytes s.atHc.int.ip.toNat (descLen s.atHc.int.flg)) := by
    show _ = headerByte s.cfg (s.inBytes 4 (descLen (s.inByte 4)))
    rw [hlen, hin.descriptor]
  have hlegal : descIllegal s.atHc.int.flg s.atHc.int.bd = false := by
    show descIllegal (s.inByte 4) (s.inByte 5) = false
    rw [hin.flg, hin.bd]
    exact descIllegal_of_legal _ _ _ _ _ hcode
  rw [hlen, hin.hc, hcState_of_legal hright hlegal] at hread
  obtain ⟨-, -, hcsz, -, hdid⟩ := latchFlags_atHc hin (headerByte s.cfg h.descriptor)
  set u := latchFlags (s.atHc.withDesc (headerByte s.cfg h.descriptor))
  obtain ⟨j, hj, hruns⟩ := runs_afterHc (s := u) h rfl
    (fun ht => by
      rw [hcsz] at ht
      rw [ht, Bool.toNat_true] at hdlen
      exact ⟨hin.csize ht, show 4 + 2 + 8 ≤ s.opr.inLen.toNat by omega⟩)
    (fun ht => by
      rw [hdid] at ht
      rw [ht, Bool.toNat_true] at hdlen
      rw [hcsz]
      exact ⟨hin.dictid ht, show 4 + 2 + 8 * h.csz.toNat + 4 ≤ s.opr.inLen.toNat by omega⟩)
  exact ⟨5 + j, by omega, hread.trans hruns⟩

end LegalHeader

end Sys2Proof.Machine
end

section
namespace Sys2Proof.Machine

/-! ### DFRAME between two blocks (43_frame.md rule R162 step B1) -/

/-- The result registers after a header (R10, R162 step H4). -/
def Header.results (cfg : Params) (h : Header) : Results where
  desc := descWord h.flg (bdByte h.code) (headerByte cfg h.descriptor)
  csizeLo := if h.csz then w32 h.csize.toNat else 0#32
  csizeHi := if h.csz then w32 (h.csize.toNat / 2 ^ 32) else 0#32
  dictId := if h.did then h.dictId else 0#32

/-- The reader, started in `s0`, has latched the header `h` and decoded the output `out`; its results are `r`, and `rest`
is the input that it has not read. -/
structure Reading (s0 : State) (h : Header) (r : Results) (out rest : List Byte) (s : State) : Prop where
  same : SameReader s0 s
  status : s.status = { state := .busy, fsm := .blocks, lastCmd := 0x05#8 }
  res : s.res = r
  indep : s.int.indep = h.indep
  bck : s.int.bck = h.bck
  csz : s.int.csz = h.csz
  cck : s.int.cck = h.cck
  bmax : s.int.bmax.toNat = blockMax h.code.toNat
  cc : h.cck = true → s.int.cc = out
  unread : s.Unread rest
  op : s.int.op.toNat = out.length
  output : s.outBytes 0 out.length = out
  outside : SameOutBut 0 out.length s0 s

theorem Reading.busy {s0 s : State} {h : Header} {r : Results} {out rest : List Byte} (hr : Reading s0 h r out rest s) :
    s.busy = true := by
  rw [State.busy, hr.status]
  rfl

theorem bdByte_code (code : BitVec 3) : (bdByte code).toNat / 16 % 8 = code.toNat := by
  have hlt := code.isLt
  rw [bdByte_toNat]
  omega

/-- DFRAME behind a legal header has decoded nothing yet. -/
theorem reading_afterHeader {h : Header} {s : State} {rest : List Byte} (hin : HasInput s (h.bytes s.cfg ++ rest)) :
    Reading (s.startCmd .dframe) h (h.results s.cfg) [] rest (s.afterHeader h) := by
  have hhead := headerIn_of_hasInput hin
  obtain ⟨hindep, hbck, hcsz, hcck, hdid⟩ := latchFlags_atHc hhead (headerByte s.cfg h.descriptor)
  have hip : (s.afterHeader h).int.ip.toNat = 4 + h.descriptor.length + 1 := by
    have hlen : descLen (s.inByte 4) = h.descriptor.length := by rw [hhead.flg, h.descLen_flg]
    rw [State.afterHeader, openBlocks_eq]
    show (w32 (4 + descLen (s.inByte 4) + 1)).toNat = _
    rw [hlen]
    exact toNat_w32 (hhead.fit.trans_lt s.opr.inLen.isLt)
  have hunread : s.atMagic.Unread (h.bytes s.cfg ++ rest) := ⟨(Nat.zero_add _).trans hin.1, hin.2⟩
  refine ⟨rfl, rfl, ?_, hindep, hbck, hcsz, hcck, ?_, fun _ => rfl, hunread.tail rfl ?_, rfl, rfl, fun _ _ => rfl⟩
  · have hres : (s.afterHeader h).res = { desc := descWord (s.inByte 4) (s.inByte 5) (headerByte s.cfg h.descriptor)
                                          csizeLo := if (s.afterHeader h).int.csz then w32 h.csize.toNat else 0#32
                                          csizeHi := if (s.afterHeader h).int.csz then w32 (h.csize.toNat / 2 ^ 32) else 0#32
                                          dictId := if (s.afterHeader h).int.did then h.dictId else 0#32 } := rfl
    have hcsz' : (s.afterHeader h).int.csz = h.csz := hcsz
    have hdid' : (s.afterHeader h).int.did = h.did := hdid
    rw [hres, hcsz', hdid', hhead.flg, hhead.bd]
    rfl
  · show (w32 (blockMax ((s.inByte 5).toNat / 16 % 8))).toNat = _
    rw [hhead.bd, bdByte_code]
    exact toNat_w32 (blockMax_lt h.code.isLt)
  · rw [hip, Header.bytes, List.length_append, List.length_append]
    exact (Nat.zero_add _).symm

/-! ### What a block leaves as it was -/

/-- `u` differs from `s` at most in `OUT` and in the registers that a data block uses. -/
def SameBlock (s u : State) : Prop :=
  u = { s with outb := u.outb, int := { u.int with
    indep := s.int.indep, bck := s.int.bck, csz := s.int.csz, cck := s.int.cck, bmax := s.int.bmax, cc := s.int.cc } }

theorem SameBlock.trans {s t u : State} (h : SameBlock s t) (h' : SameBlock t u) : SameBlock s u := by
  unfold SameBlock at h h'
  rw [h] at h'
  exact h'

theorem SameBlock.sameReader {s u : State} (h : SameBlock s u) : SameReader s u := by
  unfold SameBlock at h
  rw [h]
  rfl

theorem SameStream.sameBlock {s u : State} (h : SameStream s u) : SameBlock s u := by
  unfold SameStream at h
  rw [h]
  rfl

section Reading
variable {s0 s u : State} {h : Header} {r : Results} {out xs rest : List Byte} (hr : Reading s0 h r out (xs ++ rest) s)
  (hu : SameBlock s u)
include hr hu

/-- The reader has moved in the input, and decoded nothing. -/
theorem Reading.moved (hout : u.outb = s.outb) (hop : u.int.op = s.int.op)
    (hip : u.int.ip.toNat = s.int.ip.toNat + xs.length) : Reading s0 h r out rest u where
  same := hr.same.trans hu.sameReader
  status := (congrArg (fun v => v.status) hu).trans hr.status
  res := (congrArg (fun v => v.res) hu).trans hr.res
  indep := (congrArg (fun v => v.int.indep) hu).trans hr.indep
  bck := (congrArg (fun v => v.int.bck) hu).trans hr.bck
  csz := (congrArg (fun v => v.int.csz) hu).trans hr.csz
  cck := (congrArg (fun v => v.int.cck) hu).trans hr.cck
  bmax := (congrArg (fun v => v.int.bmax.toNat) hu).trans hr.bmax
  cc := fun hcck => (congrArg (fun v => v.int.cc) hu).trans (hr.cc hcck)
  unread := hr.unread.tail hu.sameReader hip
  op := hop ▸ hr.op
  output := (outBytes_of_outb hout hu.sameReader.outFree).trans hr.output
  outside := fun a ha => by rw [hout, hr.outside a ha]

/-- A data block ends: its output `new` is counted and fed to the content checksum (R174). -/
theorem Reading.closed {sum new rest' : List Byte} (hrest : rest = sum ++ rest') (hsum : sum.length = 4 * h.bck.toNat)
    (hstart : u.int.bstart = s.int.op) (hip : u.int.ip.toNat = s.int.ip.toNat + xs.length)
    (hop : u.int.op.toNat = (out ++ new).length) (hbytes : u.outBytes 0 (out ++ new).length = out ++ new)
    (hout : SameOutBut out.length (out ++ new).length s u) :
    Reading s0 h { r with blockIdx := r.blockIdx + 1#32 } (out ++ new) rest' (closeBlock u) := by
  have hsame := hu.sameReader
  have hunread := hr.unread.tail hsame hip
  rw [hrest] at hunread
  have hbck : u.int.bck = h.bck := (congrArg (fun v => v.int.bck) hu).trans hr.bck
  have hcck : u.int.cck = h.cck := (congrArg (fun v => v.int.cck) hu).trans hr.cck
  have hres : u.res = r := (congrArg (fun v => v.res) hu).trans hr.res
  have hfit := hunread.head.2
  rw [hsum, ← hbck] at hfit
  have hfed : u.outBytes u.int.bstart.toNat (u.int.op.toNat - u.int.bstart.toNat) = new := by
    have hlen : out.length + new.length = (out ++ new).length := (List.length_append ..).symm
    rw [← hlen, outBytes_append, Nat.zero_add] at hbytes
    rw [hstart, hr.op, hop, List.length_append, Nat.add_sub_cancel_left]
    exact (List.append_inj hbytes (State.outBytes_length ..)).2
  rw [closeBlock_eq, hfed, hres]
  refine ⟨hr.same.trans (hsame.trans rfl), ?_, rfl, (congrArg (fun v => v.int.indep) hu).trans hr.indep, hbck,
    (congrArg (fun v => v.int.csz) hu).trans hr.csz, hcck, (congrArg (fun v => v.int.bmax.toNat) hu).trans hr.bmax,
    fun hc => ?_, hunread.tail rfl ?_, hop, hbytes, ?_⟩
  · exact (congrArg (fun v => v.status) hu).trans hr.status
  · show (if u.int.cck then u.int.cc ++ new else u.int.cc) = _
    rw [hcck, hc, if_pos rfl]
    exact congrArg (· ++ new) ((congrArg (fun v => v.int.cc) hu).trans (hr.cc hc))
  · rw [hsum, ← hbck]
    exact ip_add_toNat hfit
  · exact (hr.outside.mono (Nat.le_refl _) (by rw [List.length_append]; exact Nat.le_add_right ..)).trans
      (hout.mono (Nat.zero_le _) (Nat.le_refl _))

end Reading

end Sys2Proof.Machine
end

section
namespace Sys2Proof.Machine

/-! ### A data block being read (43_frame.md rules R170 to R174) -/

theorem replayMatch_append (off n : Nat) (out : List Byte) : ∃ new, replayMatch off n out = out ++ new := by
  induction n generalizing out with
  | zero => exact ⟨[], (List.append_nil _).symm⟩
  | succ n ih =>
    obtain ⟨new, hnew⟩ := ih (out ++ [out.getD (out.length - off) 0#8])
    exact ⟨_, hnew.trans (List.append_assoc ..)⟩

theorem replay_append (qs : List Sequence) (out : List Byte) : ∃ new, replay qs out = out ++ new := by
  induction qs generalizing out with
  | nil => exact ⟨[], (List.append_nil _).symm⟩
  | cons q qs ih =>
    obtain ⟨copied, hcopied⟩ := replayMatch_append q.off.toNat q.mlen (out ++ q.lit)
    obtain ⟨new, hnew⟩ := ih (out ++ (q.lit ++ copied))
    rw [replay, hcopied, List.append_assoc, hnew, List.append_assoc]
    exact ⟨_, rfl⟩

theorem w32_succ (n : Nat) : w32 (n + 1) = w32 n + 1#32 := BitVec.ofNat_add ..

/-- A block prolongs the output. -/
theorem output_append (b : DataBlock) (out : List Byte) : ∃ new, b.output out = out ++ new := by
  cases b with
  | stored raw => exact ⟨raw, rfl⟩
  | compressed qs lit mc =>
    obtain ⟨new, hnew⟩ := replay_append qs out
    exact ⟨new ++ lit, by rw [DataBlock.output, hnew, List.append_assoc]⟩

theorem length_le_output (b : DataBlock) (out : List Byte) : out.length ≤ (b.output out).length := by
  obtain ⟨new, hnew⟩ := output_append b out
  rw [hnew, List.length_append]
  exact Nat.le_add_right ..

theorem length_le_blocksOutput (bs : List DataBlock) (out : List Byte) : out.length ≤ (blocksOutput out bs).length := by
  induction bs generalizing out with
  | nil => exact Nat.le_refl _
  | cons b bs ih => exact (length_le_output b out).trans (ih _)

section Payload
variable {s0 v : State} {h : Header} {r : Results} {out sum rest : List Byte}

/-- A stored payload is copied (R172). -/
theorem Reading.storedPayload {raw : List Byte} (hr : Reading s0 h r out (raw ++ (sum ++ rest)) v)
    (hsum : sum.length = 4 * h.bck.toNat) (hstored : v.int.blkStored = true) (hsize : v.int.blkSize.toNat = raw.length)
    (hroom : (out ++ raw).length ≤ v.opr.outCap.toNat) : (startPayload v).int.point = .block
      ∧ Reading s0 h { r with blockIdx := r.blockIdx + 1#32 } (out ++ raw) rest (startPayload v) := by
  obtain ⟨hraw, hfit⟩ := hr.unread.head
  have hlen : (out ++ raw).length = v.int.op.toNat + raw.length := by rw [List.length_append, hr.op]
  rw [hlen] at hroom
  rw [startPayload_copies hstored (by rw [hsize]; exact hroom)]
  have houtb : v.markStart.copyPayload.outb = v.outb.writeBytes v.int.op.toNat raw := by
    show v.outb.writeBytes v.int.op.toNat (v.inBytes v.int.ip.toNat v.int.blkSize.toNat) = _
    rw [hsize, hraw]
  refine ⟨rfl, hr.closed (u := v.markStart.copyPayload) rfl rfl hsum rfl ?_ ?_ ?_ ?_⟩
  · show (w32 (v.int.ip.toNat + v.int.blkSize.toNat)).toNat = _
    rw [hsize]
    exact ip_add_toNat hfit
  · show (w32 (v.int.op.toNat + v.int.blkSize.toNat)).toNat = _
    rw [hsize, hlen]
    exact toNat_w32 (hroom.trans_lt v.opr.outCap.isLt)
  · have hwritten := outBytes_writeLits v raw
    rw [hr.op, hr.output] at hwritten
    rw [List.length_append, ← hwritten]
    exact outBytes_of_outb (s := v.outWrite out.length raw) (by rw [houtb, hr.op]; rfl) rfl
  · intro a ha
    rw [hlen, ← hr.op] at ha
    rw [houtb, Memory.read_writeBytes_outside _ ha]

/-- The decoder at the head of a block's token stream (R173). -/
structure Decoding (h : Header) (out bs : List Byte) (w : State) : Prop where
  point : w.int.point = .tokens
  busy : w.busy = true
  mode : w.int.exactMode = false
  stream : w.fetchBytes .token = bs
  ip : w.int.ip.toNat + (w.fetchBytes .token).length = w.int.inEnd.toNat
  op : w.int.op.toNat = out.length
  output : w.outBytes 0 out.length = out
  histLo : w.int.histLo.toNat = if h.indep then out.length else 0
  limBlk : w.int.limBlk.toNat = out.length + blockMax h.code.toNat
  limBuf : w.int.limBuf = some w.opr.outCap

theorem Reading.decoding {bs : List Byte} (hr : Reading s0 h r out (bs ++ (sum ++ rest)) v)
    (hsize : v.int.blkSize.toNat = bs.length) : Decoding h out bs (tokenPayload v.markStart) := by
  obtain ⟨hbytes, hfit⟩ := hr.unread.head
  have hend : (tokenPayload v.markStart).int.inEnd.toNat = v.int.ip.toNat + bs.length := by
    show (w32 (v.int.ip.toNat + v.int.blkSize.toNat)).toNat = _
    rw [hsize]
    exact ip_add_toNat hfit
  have hstream : (tokenPayload v.markStart).fetchBytes .token = bs := by
    show v.inBytes v.int.ip.toNat ((tokenPayload v.markStart).int.inEnd.toNat - v.int.ip.toNat) = bs
    rw [hend, Nat.add_sub_cancel_left, hbytes]
  refine ⟨rfl, hr.busy, rfl, hstream, ?_, hr.op, hr.output, ?_, ?_, rfl⟩
  · rw [hstream, hend]
    rfl
  · show (if v.int.indep then v.int.op else 0#32).toNat = _
    rw [hr.indep]
    cases h.indep
    · rfl
    · exact hr.op
  · rw [tokenPayload_limBlk, ← hr.op, ← hr.bmax]
    rfl

theorem Decoding.histLo_le {bs : List Byte} {w : State} (hw : Decoding h out bs w) :
    w.int.histLo.toNat ≤ w.int.op.toNat
      ∧ w.int.op.toNat - w.int.histLo.toNat = if h.indep then 0 else out.length := by
  rw [hw.histLo, hw.op]
  split_ifs <;> omega

/-- A compressed payload is decoded (R173). -/
theorem Reading.compressedPayload {qs : List Sequence} {lit : List Byte} {mc : BitVec 4}
    (hr : Reading s0 h r out (blockBytes qs lit mc ++ (sum ++ rest)) v) (hsum : sum.length = 4 * h.bck.toNat)
    (hsize : v.int.blkSize.toNat = (blockBytes qs lit mc).length)
    (hlegal : legalSeqs (if h.indep then 0 else out.length) qs = true)
    (hmax : (replay qs out ++ lit).length ≤ out.length + blockMax h.code.toNat)
    (hroom : (replay qs out ++ lit).length ≤ v.opr.outCap.toNat) :
    ∃ u, Runs (qs.length + 1) (tokenPayload v.markStart) u ∧ u.int.point = .block
      ∧ Reading s0 h { r with blockIdx := r.blockIdx + 1#32 } (replay qs out ++ lit) rest u := by
  have hw := hr.decoding hsize
  obtain ⟨hhist, hback⟩ := hw.histLo_le
  set w := tokenPayload v.markStart
  have hout : w.outBytes 0 w.int.op.toNat = out := by rw [hw.op, hw.output]
  have hroomw : Room (replay qs out ++ lit).length w := by
    refine ⟨hw.limBlk ▸ hmax, hroom, fun b hb => ?_⟩
    rw [hw.limBuf] at hb
    cases hb
    exact hroom
  have hroomq := hroomw.mono (m := (replay qs out).length) (by rw [List.length_append]; exact Nat.le_add_right ..)
  obtain ⟨u, hu, hruns⟩ := decodes_seqs hw.point hw.busy hw.stream hw.ip hhist (hback ▸ hlegal) (hout.symm ▸ hroomq)
  rw [hout] at hu
  have hroomu : Room (u.int.op.toNat + lit.length) u := by
    rw [hu.op, ← List.length_append]
    exact hu.same.room hroomw
  have hlit : lit.length < 2 ^ 32 := (Nat.le_add_left ..).trans_lt hroomu.lt
  have hread := readElement_last (decide_eq_true hlit) hu.left hroomu
  have hlast := decodes_last hu.left (hu.left ▸ hu.ip) hroomu.2.1
  rw [hu.op, hu.output] at hlast
  have hx := hu.trans hlast (hw.op ▸ length_le_replay ..) (by rw [List.length_append]; exact Nat.le_add_right ..)
  set x := lastDone lit mc u
  have hmode : x.int.exactMode = false := (congrArg (fun y => y.int.exactMode) hx.same).trans hw.mode
  have hclose : terminalState x = closeBlock x := if_neg (ne_true_of_eq_false hmode)
  have hrunsl : Runs 1 u (closeBlock x) := by
    have := runs_element (s := u) (site := .token) ((congrArg (fun y => y.busy) hu.same).trans hw.busy)
      (congrArg (fun y => y.int.point.site) hu.same)
    rwa [hread, hclose] at this
  have hblock : SameBlock v w := rfl
  obtain ⟨new, hnew⟩ := replay_append qs out
  refine ⟨closeBlock x, Runs.trans hruns hrunsl, rfl, ?_⟩
  rw [hnew, List.append_assoc] at hx ⊢
  refine hr.closed (hblock.trans hx.same.sameBlock) rfl hsum ?_ ?_ hx.op hx.output ?_
  · exact congrArg (fun y => y.int.bstart) hx.same
  · have hip := hx.ip
    rw [congrArg (fun y => y.int.inEnd) hx.same, ← hw.ip, hw.stream] at hip
    exact hip
  · exact hw.op ▸ hx.outside

end Payload

/-! #### From the size word to the payload -/

theorem blockMax_le (code : BitVec 3) : blockMax code.toNat < 2 ^ 31 :=
  Nat.pow_lt_pow_right (by decide) (by have := code.isLt; omega)

/-- The clauses of `DataBlock.legal`. -/
theorem DataBlock.legal_iff {h : Header} {out : List Byte} {b : DataBlock} : b.legal h out = true ↔
    b.payload.length ≤ blockMax h.code.toNat ∧ (b.output out).length ≤ out.length + blockMax h.code.toNat
      ∧ match b with
        | .stored _ => True
        | .compressed qs lit _ => legalSeqs (if h.indep then 0 else out.length) qs = true ∧ lit.length < 2 ^ 32 := by
  cases b <;> simp [DataBlock.legal, and_assoc]

/-- The size word of a data block (R80). -/
def DataBlock.sizeWord (b : DataBlock) : Instr := .bsize b.isStored (BitVec.ofNat 31 b.payload.length)

/-- The size word of a block is no EndMark: a stored block has its bit set, a compressed one a byte at least (R80). -/
theorem DataBlock.sizeWord_wf {b : DataBlock} (hlt : b.payload.length < 2 ^ 31) : b.sizeWord.wf = true := by
  cases b with
  | stored raw => rfl
  | compressed qs lit mc =>
    have hpos : 0 < (blockBytes qs lit mc).length := by
      have hlast : 0 < (encode (.last lit mc)).length := (encode_length _).symm ▸ (Laws.EncodingSize.last ..).2
      rw [blockBytes, List.length_append]
      omega
    have hval : (BitVec.ofNat 31 (blockBytes qs lit mc).length).toNat = (blockBytes qs lit mc).length := by
      rw [BitVec.toNat_ofNat]
      exact Nat.mod_eq_of_lt hlt
    have hne : BitVec.ofNat 31 (blockBytes qs lit mc).length ≠ 0 := by
      intro h0
      rw [h0] at hval
      exact absurd hval (Nat.ne_of_lt hpos)
    exact decide_eq_true hne

/-- A block's checksum as it stands in the frame (R81). -/
def blockSum (cfg : Params) (bck : Bool) (payload : List Byte) : List Byte :=
  if bck then encode (.bck (ck32 cfg payload)) else []

theorem blockSum_length (cfg : Params) (bck : Bool) (payload : List Byte) :
    (blockSum cfg bck payload).length = 4 * bck.toNat := by
  cases bck
  · rfl
  · exact leBytes_length 4 _

theorem DataBlock.bytes_eq (cfg : Params) (bck : Bool) (b : DataBlock) :
    b.bytes cfg bck = encode b.sizeWord ++ (b.payload ++ blockSum cfg bck b.payload) :=
  List.append_assoc ..

section BlockHead
variable {s0 s v : State} {h : Header} {r : Results} {out rest : List Byte}

/-- A block's checksum is read, and is right (step B3). -/
theorem Reading.checked {payload : List Byte}
    (hr : Reading s0 h r out (payload ++ (blockSum s0.cfg h.bck payload ++ rest)) v) (hp : v.int.point = .bck)
    (hbck : h.bck = true) (hsize : v.int.blkSize.toNat = payload.length) : Runs 1 v (startPayload v) := by
  obtain ⟨hpay, -⟩ := hr.unread.head
  have hk : blockSum s0.cfg h.bck payload = encode (.bck (ck32 s0.cfg payload)) := if_pos hbck
  have hk4 : (encode (.bck (ck32 s0.cfg payload))).length = 4 := leBytes_length ..
  have hsum := inBytes_part hr.unread.2
  have hfit := hr.unread.1
  rw [hk, hk4, ← hsize] at hsum
  rw [hk, List.length_append, List.length_append, hk4, ← hsize] at hfit
  have hread := runs_encoding (i := .bck (ck32 s0.cfg payload)) hr.busy (by rw [hp]; rfl) rfl nofun nofun hsum
    (show v.int.ip.toNat + v.int.blkSize.toNat + 4 ≤ v.opr.inLen.toNat by omega)
  have hright : bckState (ck32 s0.cfg payload) v = startPayload v :=
    bckState_of_right (by rw [hr.same.cfg, hsize, hpay])
  rwa [elementState, hright] at hread

/-- A block's size word and checksum are read, and its payload comes next (steps B1 to B3). -/
theorem Reading.toPayload {b : DataBlock} (hr : Reading s0 h r out (b.bytes s0.cfg h.bck ++ rest) s)
    (hp : s.int.point = .block) (hmax : b.payload.length ≤ blockMax h.code.toNat) :
    ∃ j v, j ≤ 2 ∧ Runs j s (startPayload v)
      ∧ Reading s0 h r out (b.payload ++ (blockSum s0.cfg h.bck b.payload ++ rest)) v
      ∧ v.int.blkStored = b.isStored ∧ v.int.blkSize.toNat = b.payload.length := by
  have hlt := hmax.trans_lt (blockMax_le h.code)
  have hval : (BitVec.ofNat 31 b.payload.length).toNat = b.payload.length := by
    rw [BitVec.toNat_ofNat, Nat.mod_eq_of_lt hlt]
  rw [b.bytes_eq, List.append_assoc, List.append_assoc] at hr
  obtain ⟨hword, hfit⟩ := hr.unread.head
  have hword4 : (encode b.sizeWord).length = 4 := leBytes_length ..
  have hlen := hr.unread.1
  rw [hword4] at hword hfit
  rw [List.length_append, List.length_append, List.length_append, hword4, blockSum_length, ← hr.bck] at hlen
  have hread := runs_encoding (i := b.sizeWord) hr.busy (by rw [hp]; rfl) (DataBlock.sizeWord_wf hlt) nofun nofun hword hfit
  have hmax' : (BitVec.ofNat 31 b.payload.length).toNat ≤ s.int.bmax.toNat := by rw [hval, hr.bmax]; exact hmax
  have hall : s.int.ip.toNat + 4 + (BitVec.ofNat 31 b.payload.length).toNat + 4 * s.int.bck.toNat ≤ s.opr.inLen.toNat := by
    rw [hval]
    omega
  set v := s.takeSize b.isStored (BitVec.ofNat 31 b.payload.length)
  have hv : ∀ p, Reading s0 h r out (b.payload ++ (blockSum s0.cfg h.bck b.payload ++ rest)) (v.atPoint p) := fun p =>
    hr.moved (u := v.atPoint p) rfl rfl rfl (by rw [hword4]; exact ip_add_toNat hfit)
  change Runs 1 s (bsizeState _ _ s) at hread
  rcases Bool.eq_false_or_eq_true s.int.bck with hbck | hbck
  · rw [bsizeState_of_bck hfit hmax' hall hbck] at hread
    exact ⟨2, v.atPoint .bck, Nat.le_refl _,
      Runs.trans hread ((hv .bck).checked rfl (hr.bck ▸ hbck) hval), hv .bck, rfl, hval⟩
  · rw [bsizeState_of_no_bck hfit hmax' hall hbck] at hread
    exact ⟨1, v, by decide, hread, hv _, rfl, hval⟩

theorem DataBlock.bytes_length (cfg : Params) (bck : Bool) (b : DataBlock) :
    (b.bytes cfg bck).length = 4 + b.payload.length + 4 * bck.toNat := by
  have hword4 : (encode b.sizeWord).length = 4 := leBytes_length ..
  rw [b.bytes_eq, List.length_append, List.length_append, blockSum_length, hword4, Nat.add_assoc]

/-- The reader decodes a legal block for which there is room (steps B1 to B5). -/
theorem Reading.block {b : DataBlock} (hr : Reading s0 h r out (b.bytes s0.cfg h.bck ++ rest) s)
    (hp : s.int.point = .block) (hlegal : b.legal h out = true) (hroom : (b.output out).length ≤ s0.opr.outCap.toNat) :
    ∃ j u, j ≤ (b.bytes s0.cfg h.bck).length ∧ Runs j s u ∧ u.int.point = .block
      ∧ Reading s0 h { r with blockIdx := r.blockIdx + 1#32 } (b.output out) rest u := by
  obtain ⟨hmax, hraw, hkind⟩ := DataBlock.legal_iff.1 hlegal
  obtain ⟨j, v, hj, hruns, hv, hstored, hsize⟩ := hr.toPayload hp hmax
  have hsum := blockSum_length s0.cfg h.bck b.payload
  have hcap := hv.same.opr
  rw [b.bytes_length]
  cases b with
  | stored raw =>
    obtain ⟨hpoint, hread⟩ := hv.storedPayload hsum hstored hsize (by rw [hcap]; exact hroom)
    exact ⟨j, _, by omega, hruns, hpoint, hread⟩
  | compressed qs lit mc =>
    rw [startPayload_of_compressed hstored] at hruns
    obtain ⟨u, hdecode, hpoint, hread⟩ := hv.compressedPayload hsum hsize hkind.1 hraw (by rw [hcap]; exact hroom)
    have hlen : qs.length ≤ (DataBlock.compressed qs lit mc).payload.length := length_le_blockBytes qs lit mc
    exact ⟨j + (qs.length + 1), u, by omega, hruns.trans hdecode, hpoint, hread⟩

/-- The reader decodes a list of legal blocks for which there is room. -/
theorem Reading.blocks {bs : List DataBlock}
    (hr : Reading s0 h r out ((bs.map fun b => b.bytes s0.cfg h.bck).flatten ++ rest) s) (hp : s.int.point = .block)
    (hlegal : blocksLegal h out bs = true) (hroom : (blocksOutput out bs).length ≤ s0.opr.outCap.toNat) :
    ∃ j u, j ≤ ((bs.map fun b => b.bytes s0.cfg h.bck).flatten).length ∧ Runs j s u ∧ u.int.point = .block
      ∧ Reading s0 h { r with blockIdx := r.blockIdx + w32 bs.length } (blocksOutput out bs) rest u := by
  induction bs generalizing out r s with
  | nil =>
    have hidx : r.blockIdx + w32 0 = r.blockIdx := BitVec.add_zero _
    rw [List.length_nil, hidx]
    exact ⟨0, s, Nat.zero_le _, Runs.refl s, hp, hr⟩
  | cons b bs ih =>
    rw [List.map_cons, List.flatten_cons, List.append_assoc] at hr
    rw [blocksLegal, Bool.and_eq_true] at hlegal
    rw [blocksOutput] at hroom ⊢
    obtain ⟨j, u, hj, hruns, hpu, hu⟩ := hr.block hp hlegal.1 ((length_le_blocksOutput bs _).trans hroom)
    obtain ⟨k, v, hk, hruns', hpv, hv⟩ := ih hu hpu hlegal.2 hroom
    have hidx : r.blockIdx + 1#32 + w32 bs.length = r.blockIdx + w32 (b :: bs).length := by
      rw [List.length_cons, w32_succ, BitVec.add_assoc, BitVec.add_comm 1#32]
    rw [← hidx, List.map_cons, List.flatten_cons, List.length_append]
    exact ⟨j + k, v, by omega, hruns.trans hruns', hpv, hv⟩

end BlockHead

end Sys2Proof.Machine
end

section
namespace Sys2Proof.Machine

/-! ### The trailer of a legal frame (43_frame.md rules R175, R177) -/

/-- The content checksum as it stands in the frame (R83). -/
def contentSum (cfg : Params) (cck : Bool) (content : List Byte) : List Byte :=
  if cck then encode (.cck (ck32 cfg content)) else []

theorem Frame.bytes_eq (cfg : Params) (f : Frame) (rest : List Byte) : f.bytes cfg ++ rest
    = f.head.bytes cfg ++ ((f.blocks.map fun b => b.bytes cfg f.head.bck).flatten
      ++ (encode .endmark ++ (contentSum cfg f.head.cck f.content ++ rest))) := by
  rw [Frame.bytes, contentSum, List.append_assoc, List.append_assoc, List.append_assoc]

theorem Frame.legal_iff (f : Frame) : f.legal = true ↔ 4 ≤ f.head.code.toNat ∧ blocksLegal f.head [] f.blocks = true
    ∧ (f.head.csz = true → f.head.csize.toNat = f.content.length) := by
  cases h : f.head.csz <;> simp [Frame.legal, h, and_assoc]

section Trailer
variable {s0 s : State} {h : Header} {r : Results} {out rest : List Byte}

/-- The result registers with the content checksum, where there is one (step E2). -/
def Results.withCksum (r : Results) (cfg : Params) (cck : Bool) (out : List Byte) : Results :=
  if cck then { r with cksum := ck32 cfg out } else r

/-- The reader at the end of the frame, all of it read. -/
structure FrameRead (s0 : State) (r : Results) (out rest : List Byte) (u : State) : Prop where
  same : SameReader s0 u
  status : u.status = { state := .busy, fsm := .endMark, lastCmd := 0x05#8 }
  res : u.res = r
  unread : u.Unread rest
  op : u.int.op.toNat = out.length
  output : u.outBytes 0 out.length = out
  outside : SameOutBut 0 out.length s0 u

/-- The EndMark and the content checksum are read (steps B1, E1, E2). -/
theorem Reading.trailer (hr : Reading s0 h r out (encode .endmark ++ (contentSum s0.cfg h.cck out ++ rest)) s)
    (hp : s.int.point = .block) : ∃ j u, j ≤ 2 ∧ Runs j s (closeFrame u)
      ∧ FrameRead s0 (r.withCksum s0.cfg h.cck out) out rest u ∧ u.int.csz = h.csz := by
  obtain ⟨henc, hfit⟩ := hr.unread.head
  have hread := runs_encoding (i := .endmark) hr.busy (by rw [hp]; rfl) rfl nofun nofun henc hfit
  change Runs 1 s (endmarkState s) at hread
  have hip : s.takeEndmark.int.ip.toNat = s.int.ip.toNat + 4 := ip_add_toNat hfit
  have hunread : s.takeEndmark.Unread (contentSum s0.cfg h.cck out ++ rest) := hr.unread.tail rfl hip
  have hstatus : s.takeEndmark.status = { state := .busy, fsm := .endMark, lastCmd := 0x05#8 } := by
    show ({ s.status with fsm := .endMark } : Status) = _
    rw [hr.status]
  rcases Bool.eq_false_or_eq_true s.int.cck with hcck | hcck
  · rw [endmarkState_of_cck hcck] at hread
    rw [← hr.cck, hcck] at hunread ⊢
    have hcc := hr.cc (hr.cck ▸ hcck)
    obtain ⟨hsum, hfit'⟩ := hunread.head
    have hk4 : (encode (.cck (ck32 s0.cfg out))).length = 4 := leBytes_length ..
    change s.inBytes _ (encode (.cck (ck32 s0.cfg out))).length = _ at hsum
    change _ + (encode (.cck (ck32 s0.cfg out))).length ≤ _ at hfit'
    rw [hk4] at hsum hfit'
    have hreadk := runs_encoding (s := s.takeEndmark.atPoint .cck) (i := .cck (ck32 s0.cfg out))
      (by rw [State.busy]; exact hstatus ▸ rfl) rfl rfl nofun nofun hsum hfit'
    have hright : cckState (ck32 s0.cfg out) (s.takeEndmark.atPoint .cck)
        = closeFrame ((s.takeEndmark.atPoint .cck).withCksum.skip 4) :=
      cckState_of_right (by rw [← hcc, ← hr.same.cfg]; rfl)
    rw [elementState, hright] at hreadk
    refine ⟨2, _, Nat.le_refl _, hread.trans hreadk, ⟨hr.same.trans rfl, hstatus, ?_, ?_, hr.op, hr.output, hr.outside⟩,
      hr.csz⟩
    · show ({ s.res with cksum := ck32 s.cfg s.int.cc } : Results) = _
      rw [hr.res, hcc, hr.same.cfg]
      rfl
    · exact hunread.tail rfl
        ((toNat_w32 (hfit'.trans_lt s.opr.inLen.isLt)).trans (congrArg (s.takeEndmark.int.ip.toNat + ·) hk4.symm))
  · rw [endmarkState_of_no_cck hcck] at hread
    rw [← hr.cck, hcck] at hunread ⊢
    exact ⟨1, _, by decide, hread, ⟨hr.same.trans rfl, hstatus, hr.res, hunread, hr.op, hr.output, hr.outside⟩, hr.csz⟩

/-- The end of a frame whose content size, where there is one, is true (step E3). -/
theorem FrameRead.ended {n : Nat} {u : State} (hu : FrameRead s0 r out rest u)
    (hsize : u.int.csz = false ∨ u.contentSize = u.int.op.toNat) (hn : n + rest.length = s0.opr.inLen.toNat) :
    (closeFrame u).busy = false
      ∧ Ended { state := .done, fsm := .finished, lastCmd := 0x05#8 } s0.err r 0 out.length n s0 (closeFrame u)
      ∧ (closeFrame u).outBytes 0 out.length = out := by
  have hip : u.int.ip = w32 n := by
    have hlen := hu.unread.1
    rw [hu.same.opr] at hlen
    rw [← w32_toNat u.int.ip]
    exact congrArg w32 (by omega)
  have hend := SameReader.finished (s := s0) (u := { u with status := { u.status with fsm := .finished } })
    (hu.same.trans rfl) hu.op hip (Nat.zero_le _) hu.outside
  rw [closeFrame_of_right hsize]
  refine ⟨rfl, ?_, (outBytes_finish_at_cursors (u := { u with status := { u.status with fsm := .finished } })
    (by rw [Nat.zero_add]; exact hu.op.ge)).trans hu.output⟩
  have hstatus : ({ u.status with fsm := .finished, state := .done } : Status)
      = { state := .done, fsm := .finished, lastCmd := 0x05#8 } := by
    rw [hu.status]
  have herr : u.err = s0.err := hu.same.err
  rw [← hstatus, ← herr, ← hu.res]
  exact hend

end Trailer

/-- The result registers after a frame. -/
def Frame.results (cfg : Params) (f : Frame) : Results :=
  { f.head.results cfg with blockIdx := 0#32 + w32 f.blocks.length }.withCksum cfg f.head.cck f.content

theorem Frame.results_eq (cfg : Params) (f : Frame) : f.results cfg =
    { f.head.results cfg with
      blockIdx := w32 f.blocks.length, cksum := if f.head.cck then ck32 cfg f.content else 0#32 } := by
  rw [Frame.results, Results.withCksum, BitVec.zero_add]
  cases f.head.cck <;> rfl

theorem size_words {n : Nat} (h : n < 2 ^ 64) : (w32 n).toNat + 2 ^ 32 * (w32 (n / 2 ^ 32)).toNat = n := by
  rw [BitVec.toNat_ofNat, BitVec.toNat_ofNat]
  omega

/-- DFRAME reads every legal frame to its end (R162). -/
theorem exec_dframe {s : State} {f : Frame} {rest : List Byte} (hb : s.busy = false)
    (hin : HasInput s (f.bytes s.cfg ++ rest)) (hlegal : f.legal = true)
    (hroom : f.content.length ≤ s.opr.outCap.toNat) : ∃ t, exec .dframe s = .next t
      ∧ Ended { state := .done, fsm := .finished, lastCmd := 0x05#8 } .none (f.results s.cfg) 0 f.content.length
        (f.bytes s.cfg).length s t
      ∧ t.outBytes 0 f.content.length = f.content := by
  obtain ⟨hcode, hblocks, hsize⟩ := f.legal_iff.1 hlegal
  have hlen := hin.1
  rw [f.bytes_eq] at hin
  obtain ⟨j, hj, hruns⟩ := runs_header (headerIn_of_hasInput hin) hcode
  obtain ⟨k, u, hk, hrunsb, hpu, hu⟩ := (reading_afterHeader hin).blocks rfl hblocks hroom
  obtain ⟨m, v, hm, hrunst, hv, hcsz⟩ := hu.trailer hpu
  have hright : v.int.csz = false ∨ v.contentSize = v.int.op.toNat := by
    rcases Bool.eq_false_or_eq_true f.head.csz with ht | hf
    · have hwords : v.contentSize = f.head.csize.toNat := by
        have hres : v.res.csizeLo = w32 f.head.csize.toNat ∧ v.res.csizeHi = w32 (f.head.csize.toNat / 2 ^ 32) := by
          rw [hv.res, Results.withCksum]
          cases f.head.cck <;> exact ⟨if_pos ht, if_pos ht⟩
        rw [State.contentSize, hres.1, hres.2]
        exact size_words f.head.csize.isLt
      exact .inr (by rw [hwords, hsize ht, hv.op]; rfl)
    · exact .inl (hcsz.trans hf)
  obtain ⟨hdone, hend, hbytes⟩ := hv.ended (n := (f.bytes s.cfg).length) hright (by rw [← List.length_append]; exact hlen)
  have hfuel : j + k + m ≤ s.fuel := by
    have htotal := hin.1
    rw [List.length_append, List.length_append] at htotal
    change k ≤ ((f.blocks.map fun b => b.bytes s.cfg f.head.bck).flatten).length at hk
    rw [State.fuel]
    omega
  exact ⟨_, congrArg Host.Outcome.next (runCommand_of_runs hb ((hruns.trans hrunsb).trans hrunst) hfuel hdone),
    hend.of_startCmd, hbytes⟩

/-- Settles O32: header, blocks and trailer of a legal frame are read one after the other. -/
theorem dframeDecodesLegalFrame : Obligations.DframeDecodesLegalFrame := by
  intro s f rest hb hin hlegal hroom
  obtain ⟨t, hexec, hend, hbytes⟩ := exec_dframe hb hin hlegal hroom
  rw [f.results_eq] at hend
  exact ⟨t, hexec, hend, hbytes⟩

end Sys2Proof.Machine
end

section
namespace Sys2Proof.Machine

/-! ### DFRAME without room for the content (43_frame.md rules R172, R188; 42_block_decoder.md rule R142) -/

/-- A run that raises `InsufficientOutputSpace` within `n` steps. -/
def RunsOutOfSpace (n : Nat) (s : State) : Prop :=
  ∃ j u, j ≤ n ∧ Runs j s (State.raiseAtCursors .insufficientOutputSpace u)

theorem RunsOutOfSpace.after {j m n : Nat} {s t : State} (h : RunsOutOfSpace n t) (hruns : Runs j s t) (hm : j + n ≤ m) :
    RunsOutOfSpace m s := by
  obtain ⟨k, u, hk, hruns'⟩ := h
  exact ⟨j + k, u, by omega, hruns.trans hruns'⟩

/-- A step in a token stream that comes to that error. -/
theorem runsOutOfSpace_of_outcome {s : State} {bs lit : List Byte} {n : Nat} (hp : s.int.point = .tokens)
    (hb : s.busy = true) (hbytes : s.fetchBytes .token = bs)
    (ho : s.int.tokenOutcome bs = .stop .insufficientOutputSpace lit n) : RunsOutOfSpace 1 s := by
  have hleaves := readElement_leaves s
  rw [hbytes, ho] at hleaves
  obtain ⟨u, -, hu⟩ := hleaves
  have hruns := runs_element (s := s) (site := .token) hb (by rw [hp]; rfl)
  exact ⟨1, u, Nat.le_refl _, hu ▸ hruns⟩

theorem tokenOutcome_of_seq {i : Internal} {bs lit : List Byte} {off : BitVec 16} {mlen : Nat}
    (h : decodeToken bs = .ok (.seq lit off mlen)) : i.tokenOutcome bs = i.seqOutcome lit off mlen := by
  rw [Internal.tokenOutcome, h]

theorem tokenOutcome_of_last {i : Internal} {bs lit : List Byte} {mc : BitVec 4}
    (h : decodeToken bs = .ok (.last lit mc)) : i.tokenOutcome bs = i.lastOutcome lit mc := by
  rw [Internal.tokenOutcome, h]

/-- Past the end of the buffer, and within the block maximum, the limit check names the buffer (R142). -/
theorem over_of_buffer {i : Internal} {n : Nat} {b : Word} (hblk : n ≤ i.limBlk.toNat) (hbuf : i.limBuf = some b)
    (hlt : b.toNat < n) : i.over n = some .insufficientOutputSpace :=
  Internal.over_of_fails (.inr ⟨hblk, ⟨b, hbuf, hlt⟩, rfl⟩)

/-- A SEQ that the buffer does not hold: its literals or its match pass the limit (R143 steps 3, 7). -/
theorem seqOutcome_of_no_room {s : State} {lit : List Byte} {off : BitVec 16} {mlen : Nat} {b : Word}
    (hwf : (Instr.seq lit off mlen).wf = true)
    (hoff : off.toNat ≤ s.int.op.toNat + lit.length - s.int.histLo.toNat)
    (hblk : s.int.op.toNat + lit.length + mlen ≤ s.int.limBlk.toNat) (hbuf : s.int.limBuf = some b)
    (hlt : b.toNat < s.int.op.toNat + lit.length + mlen) :
    ∃ copied n, s.int.seqOutcome lit off mlen = .stop .insufficientOutputSpace copied n := by
  rw [Internal.seqOutcome]
  by_cases hlits : b.toNat < s.int.op.toNat + lit.length
  · exact ⟨_, _, Internal.afterLits_of_over_eq_some (over_of_buffer (by omega) hbuf hlits)⟩
  · have hfit : s.int.over (s.int.op.toNat + lit.length) = none := by
      rcases s.int.over_cases (s.int.op.toNat + lit.length) with ⟨hn, -⟩ | ⟨-, hpast⟩ | ⟨-, -, b', hb', hpast⟩
      · exact hn
      · omega
      · rw [hbuf] at hb'
        cases hb'
        omega
    have hword : s.int.op.toNat + lit.length < 2 ^ 32 := (Nat.le_of_not_lt hlits).trans_lt b.isLt
    rw [Internal.afterLits_of_over_eq_none hfit, Internal.afterOff_of_legal hword (off_ne_zero_of_wf hwf) hoff]
    exact ⟨_, _, Internal.afterMatch_of_over_eq_some hword (over_of_buffer hblk hbuf hlt)⟩

/-- A token stream of legal Sequences whose replay is within the block maximum but not within the buffer (R142). -/
theorem runsOutOfSpace_of_stream {qs : List Sequence} {lit : List Byte} {mc : BitVec 4} {s : State}
    (hp : s.int.point = .tokens) (hb : s.busy = true) (hbytes : s.fetchBytes .token = blockBytes qs lit mc)
    (hip : s.int.ip.toNat + (s.fetchBytes .token).length = s.int.inEnd.toNat)
    (hhist : s.int.histLo.toNat ≤ s.int.op.toNat)
    (hlegal : legalSeqs (s.int.op.toNat - s.int.histLo.toNat) qs = true) (hlit : lit.length < 2 ^ 32)
    (hblk : (replay qs (s.outBytes 0 s.int.op.toNat) ++ lit).length ≤ s.int.limBlk.toNat)
    (hbuf : s.int.limBuf = some s.opr.outCap)
    (hover : s.opr.outCap.toNat < (replay qs (s.outBytes 0 s.int.op.toNat) ++ lit).length) :
    RunsOutOfSpace (qs.length + 1) s := by
  induction qs generalizing s with
  | nil =>
    have hd : decodeToken (encode (.last lit mc)) = .ok (.last lit mc) := decode_encode_last lit mc (decide_eq_true hlit)
    rw [replay, List.length_append, State.outBytes_length] at hblk hover
    refine runsOutOfSpace_of_outcome hp hb hbytes ?_ (lit := []) (n := 1 + extLen lit.length)
    show s.int.tokenOutcome (encode (.last lit mc)) = _
    rw [tokenOutcome_of_last hd]
    exact Internal.afterLits_of_over_eq_some (over_of_buffer hblk hbuf hover)
  | cons q qs ih =>
    have hsplit : blockBytes (q :: qs) lit mc = encode (.seq q.lit q.off q.mlen) ++ blockBytes qs lit mc := by
      rw [blockBytes, List.map_cons, List.flatten_cons, List.append_assoc]
      rfl
    rw [hsplit] at hbytes
    rw [hbytes] at hip
    rw [legalSeqs, Bool.and_eq_true, Bool.and_eq_true, decide_eq_true_eq] at hlegal
    obtain ⟨⟨hwf, hoff⟩, hlegal⟩ := hlegal
    have hoff' : q.off.toNat ≤ s.int.op.toNat + q.lit.length - s.int.histLo.toNat := by omega
    have hlen : (replayMatch q.off.toNat q.mlen (s.outBytes 0 s.int.op.toNat ++ q.lit)).length
        = s.int.op.toNat + q.lit.length + q.mlen := by
      rw [replayMatch_length, List.length_append, State.outBytes_length]
    have hgrow : s.int.op.toNat + q.lit.length + q.mlen ≤ (replay (q :: qs) (s.outBytes 0 s.int.op.toNat) ++ lit).length := by
      rw [replay, List.length_append, ← hlen]
      exact (length_le_replay qs _).trans (Nat.le_add_right ..)
    by_cases hfit : s.int.op.toNat + q.lit.length + q.mlen ≤ s.opr.outCap.toNat
    · have hroom : Room (s.int.op.toNat + q.lit.length + q.mlen) s := by
        refine ⟨hgrow.trans hblk, hfit, fun b hb' => ?_⟩
        rw [hbuf] at hb'
        cases hb'
        exact hfit
      have hpos : 1 ≤ q.off.toNat :=
        Nat.one_le_iff_ne_zero.2 fun h0 => off_ne_zero_of_wf hwf (BitVec.eq_of_toNat_eq h0)
      have hread := readElement_seq hwf hbytes hoff' hroom
      have hdec := decodes_seq hbytes hip hpos (by omega) hfit
      set v := seqDone q.lit q.off q.mlen s
      have hruns : Runs 1 s v := hread ▸ runs_element (s := s) (site := .token) hb (by rw [hp]; rfl)
      have hop := hdec.op
      have hout := hdec.output
      rw [← hdec.op] at hout
      rw [hlen] at hop
      have hhistv : v.int.histLo = s.int.histLo := congrArg (fun w => w.int.histLo) hdec.same
      have hblkv : v.int.limBlk = s.int.limBlk := congrArg (fun w => w.int.limBlk) hdec.same
      have hcapv : v.opr = s.opr := congrArg (fun w => w.opr) hdec.same
      have hreach : v.int.op.toNat - v.int.histLo.toNat
          = s.int.op.toNat - s.int.histLo.toNat + q.lit.length + q.mlen := by rw [hhistv, hop]; omega
      have hrest := ih (s := v) ((congrArg (fun w => w.int.point) hdec.same).trans hp)
        ((congrArg (fun w => w.busy) hdec.same).trans hb) hdec.left (hdec.left ▸ hdec.ip) (by rw [hhistv, hop]; omega)
        (hreach ▸ hlegal) (by rw [hout, hblkv]; exact hblk)
        ((congrArg (fun w => w.int.limBuf) hdec.same).trans (hbuf.trans (congrArg (some ·.outCap) hcapv.symm)))
        (by rw [hout, hcapv]; exact hover)
      exact hrest.after hruns (by rw [List.length_cons]; omega)
    · obtain ⟨copied, n, ho⟩ := seqOutcome_of_no_room hwf hoff' (hgrow.trans hblk) hbuf (Nat.lt_of_not_le hfit)
      have hd := decode_encode_seq q.lit q.off q.mlen (blockBytes qs lit mc) hwf
      obtain ⟨j, u, hj, hruns⟩ := runsOutOfSpace_of_outcome hp hb hbytes ((tokenOutcome_of_seq hd).trans ho)
      exact ⟨j, u, hj.trans (Nat.le_add_left ..), hruns⟩

section Frame
variable {s0 s v : State} {h : Header} {r : Results} {out rest : List Byte}

/-- A legal block that the buffer does not hold. -/
theorem Reading.block_of_no_room {b : DataBlock} (hr : Reading s0 h r out (b.bytes s0.cfg h.bck ++ rest) s)
    (hp : s.int.point = .block) (hlegal : b.legal h out = true) (hno : s0.opr.outCap.toNat < (b.output out).length) :
    RunsOutOfSpace (b.bytes s0.cfg h.bck).length s := by
  obtain ⟨hmax, hraw, hkind⟩ := DataBlock.legal_iff.1 hlegal
  obtain ⟨j, v, hj, hruns, hv, hstored, hsize⟩ := hr.toPayload hp hmax
  have hcap := hv.same.opr
  rw [← hcap] at hno
  rw [b.bytes_length]
  cases b with
  | stored raw =>
    have hpast : v.opr.outCap.toNat < v.int.op.toNat + v.int.blkSize.toNat := by
      rw [hv.op, hsize]
      exact hno.trans_eq (List.length_append ..)
    rw [startPayload_of_no_room hstored hpast] at hruns
    exact ⟨j, _, by omega, hruns⟩
  | compressed qs lit mc =>
    rw [startPayload_of_compressed hstored] at hruns
    have hw := hv.decoding hsize
    obtain ⟨hhist, hback⟩ := hw.histLo_le
    have hout : (tokenPayload v.markStart).outBytes 0 (tokenPayload v.markStart).int.op.toNat = out := by
      rw [hw.op, hw.output]
    have hlen : qs.length ≤ (DataBlock.compressed qs lit mc).payload.length := length_le_blockBytes qs lit mc
    refine (runsOutOfSpace_of_stream hw.point hw.busy hw.stream hw.ip hhist (hback ▸ hkind.1) hkind.2 ?_ hw.limBuf
      (hout.symm ▸ hno)).after hruns (by omega)
    rw [hout, hw.limBlk]
    exact hraw

/-- A list of legal blocks that the buffer does not hold. -/
theorem Reading.blocks_of_no_room {bs : List DataBlock}
    (hr : Reading s0 h r out ((bs.map fun b => b.bytes s0.cfg h.bck).flatten ++ rest) s) (hp : s.int.point = .block)
    (hlegal : blocksLegal h out bs = true) (hfit : out.length ≤ s0.opr.outCap.toNat)
    (hno : s0.opr.outCap.toNat < (blocksOutput out bs).length) :
    RunsOutOfSpace ((bs.map fun b => b.bytes s0.cfg h.bck).flatten).length s := by
  induction bs generalizing out r s with
  | nil => exact absurd hno (Nat.not_lt.2 hfit)
  | cons b bs ih =>
    rw [List.map_cons, List.flatten_cons, List.append_assoc] at hr
    rw [blocksLegal, Bool.and_eq_true] at hlegal
    rw [List.map_cons, List.flatten_cons, List.length_append]
    by_cases hroom : (b.output out).length ≤ s0.opr.outCap.toNat
    · obtain ⟨j, u, hj, hruns, hpu, hu⟩ := hr.block hp hlegal.1 hroom
      exact (ih hu hpu hlegal.2 hroom hno).after hruns (by omega)
    · obtain ⟨j, u, hj, hruns⟩ := hr.block_of_no_room hp hlegal.1 (Nat.lt_of_not_le hroom)
      exact ⟨j, u, hj.trans (Nat.le_add_right ..), hruns⟩

end Frame

/-- DFRAME on a legal frame whose content `OUT` cannot hold (R188). -/
theorem exec_dframe_of_no_room {s : State} {f : Frame} {rest : List Byte} (hb : s.busy = false)
    (hin : HasInput s (f.bytes s.cfg ++ rest)) (hlegal : f.legal = true)
    (hno : s.opr.outCap.toNat < f.content.length) : ∃ t, exec .dframe s = .next t
      ∧ t.status.state = .error ∧ t.err = .insufficientOutputSpace := by
  obtain ⟨hcode, hblocks, -⟩ := f.legal_iff.1 hlegal
  rw [f.bytes_eq] at hin
  obtain ⟨j, hj, hruns⟩ := runs_header (headerIn_of_hasInput hin) hcode
  obtain ⟨k, u, hk, hrunsb⟩ := (reading_afterHeader hin).blocks_of_no_room rfl hblocks (Nat.zero_le _) hno
  have hstate : (State.raiseAtCursors .insufficientOutputSpace u).status.state = .error := by
    rw [State.raiseAtCursors_status, Status.failed_state]
  have hdone : (State.raiseAtCursors .insufficientOutputSpace u).busy = false := by
    rw [State.busy, hstate]
    rfl
  have hfuel : j + k ≤ s.fuel := by
    have htotal := hin.1
    rw [List.length_append, List.length_append] at htotal
    change k ≤ ((f.blocks.map fun b => b.bytes s.cfg f.head.bck).flatten).length at hk
    rw [State.fuel]
    omega
  exact ⟨_, congrArg Host.Outcome.next (runCommand_of_runs hb (hruns.trans hrunsb) hfuel hdone), hstate, rfl⟩

end Sys2Proof.Machine
end

section
namespace Sys2Proof.Machine

/-! ### CFRAME's space check (43_frame.md rules R180, R181) -/

/-- The bound of R181 as a sum over the blocks that the content is cut into. -/
theorem frameBound_eq_sum (bmax n : Nat) (bck cck csz : Bool) : frameBound bmax n bck cck csz
    = (7 + 8 * csz.toNat) + ((List.replicate (n / bmax) bmax ++ if n % bmax = 0 then [] else [n % bmax]).map
        fun b => 4 + b + b / 255 + 16 + 4 * bck.toNat).sum + 4 + 4 * cck.toNat := by
  have hblock : (fun b => 4 + b + b / 255 + 16 + 4 * bck.toNat) = blockBound bck := by
    funext b
    rw [blockBound, compressBound]
    omega
  rw [hblock, List.map_append, List.sum_append, List.map_replicate, List.sum_replicate, smul_eq_mul, frameBound,
    apply_ite (fun bs : List Nat => (bs.map (blockBound bck)).sum)]
  exact (Nat.add_assoc ..).symm

theorem bit_toNat (o : Word) (i : Nat) : (o.getLsbD i).toNat = o.toNat / 2 ^ i % 2 := Nat.toNat_testBit ..

theorem enterCframe_of_no_room {s : State} (h : s.opr.outCap.toNat < frameBound (blockMax s.cfg.blockMaxCode)
      s.opr.inLen.toNat (optBck s.opr.options) (optCck s.opr.options) (optCsz s.opr.options)) :
    enterCframe s = s.withOptions.raiseUntouched .insufficientOutputSpace :=
  if_pos h

/-- CFRAME without room for the frame bound fails before it writes a byte (R181). -/
theorem exec_cframe_of_no_room {s : State} (hb : s.busy = false)
    (h : s.opr.outCap.toNat < frameBound (blockMax s.cfg.blockMaxCode) s.opr.inLen.toNat (optBck s.opr.options)
      (optCck s.opr.options) (optCsz s.opr.options)) :
    exec .cframe s = .next ((s.startCmd .cframe).withOptions.raiseUntouched .insufficientOutputSpace) :=
  congrArg Host.Outcome.next (runCommand_of_one_step hb (enterCframe_of_no_room h) rfl)

/-- Settles O45: the sum over the blocks is the bound that CFRAME compares. -/
theorem cframeChecksSpaceFirst : Obligations.CframeChecksSpaceFirst := by
  intro s _ hb n bmax bit sizes bound hroom
  have hbound : bound = frameBound bmax n (optBck s.opr.options) (optCck s.opr.options) (optCsz s.opr.options) := by
    rw [frameBound_eq_sum, optBck, optCck, optCsz]
    simp only [bit_toNat]
    rfl
  have hrun := exec_cframe_of_no_room hb (hroom.trans_eq hbound)
  exact ⟨_, hrun, rfl, rfl, rfl, rfl, fun _ => ⟨rfl, rfl⟩, exec_kept hrun⟩

end Sys2Proof.Machine
end

section
namespace Sys2Proof.Machine

/-! ### Content cut into data blocks (43_frame.md rule R182) -/

theorem blocksOutput_append (out : List Byte) (bs cs : List DataBlock) :
    blocksOutput out (bs ++ cs) = blocksOutput (blocksOutput out bs) cs := by
  induction bs generalizing out with
  | nil => rfl
  | cons b bs ih => exact ih _

theorem blocksLegal_append (h : Header) (out : List Byte) (bs cs : List DataBlock) :
    blocksLegal h out (bs ++ cs) = (blocksLegal h out bs && blocksLegal h (blocksOutput out bs) cs) := by
  induction bs generalizing out with
  | nil => rfl
  | cons b bs ih =>
    rw [List.cons_append, blocksLegal, blocksLegal, ih, Bool.and_assoc]
    rfl

/-- Legal data blocks that are the first ones of a content cut at the multiples of the block maximum (R182). -/
structure CutBlocks (h : Header) (content : List Byte) (bs : List DataBlock) : Prop where
  legal : blocksLegal h [] bs = true
  output : ∀ k, k ≤ bs.length → blocksOutput [] (bs.take k) = content.take (k * blockMax h.code.toNat)

section CutBlocks
variable {h : Header} {content : List Byte} {bs : List DataBlock} {b : DataBlock}

theorem cutBlocks_nil (h : Header) (content : List Byte) : CutBlocks h content [] := by
  refine ⟨rfl, fun k hk => ?_⟩
  obtain rfl : k = 0 := Nat.le_zero.1 hk
  rw [Nat.zero_mul]
  rfl

theorem CutBlocks.whole (hc : CutBlocks h content bs) :
    blocksOutput [] bs = content.take (bs.length * blockMax h.code.toNat) := by
  rw [← hc.output bs.length (Nat.le_refl _), List.take_length]

theorem CutBlocks.append (hc : CutBlocks h content bs) (hlegal : b.legal h (blocksOutput [] bs) = true)
    (hout : b.output (blocksOutput [] bs) = content.take ((bs.length + 1) * blockMax h.code.toNat)) :
    CutBlocks h content (bs ++ [b]) := by
  refine ⟨?_, fun k hk => ?_⟩
  · rw [blocksLegal_append, hc.legal, blocksLegal, hlegal]
    rfl
  · rw [List.length_append, List.length_singleton] at hk
    rcases Nat.lt_or_eq_of_le hk with hlt | rfl
    · have hle := Nat.le_of_lt_succ hlt
      rw [List.take_append_of_le_length hle]
      exact hc.output k hle
    · rw [List.take_of_length_le (by rw [List.length_append]; rfl), blocksOutput_append]
      exact hout

end CutBlocks

theorem take_inBytes (s : State) (m n : Nat) : (s.inBytes 0 n).take m = s.inBytes 0 (min n m) := by
  rcases Nat.le_total n m with hle | hle
  · rw [Nat.min_eq_left hle, List.take_of_length_le ((s.inBytes_length 0 n).trans_le hle)]
  · rw [Nat.min_eq_right hle, ← inBytes_zero_append s hle, List.take_left' (s.inBytes_length ..)]

/-- What the blocks of `m` bytes may take (R181). -/
def blocksBound (bck : Bool) (bmax m : Nat) : Nat :=
  m / bmax * blockBound bck bmax + if m % bmax = 0 then 0 else blockBound bck (m % bmax)

theorem blocksBound_zero (bck : Bool) (bmax : Nat) : blocksBound bck bmax 0 = 0 := by
  rw [blocksBound, Nat.zero_div, Nat.zero_mul, Nat.zero_mod]
  rfl

/-- The first block takes its share, the others the rest. -/
theorem blocksBound_eq_add (bck : Bool) {bmax m : Nat} (hb : 0 < bmax) (hm : 0 < m) : blocksBound bck bmax m
    = blockBound bck (min m bmax) + blocksBound bck bmax (m - min m bmax) := by
  rcases Nat.lt_or_ge m bmax with hlt | hge
  · rw [Nat.min_eq_left hlt.le, Nat.sub_self, blocksBound_zero, blocksBound, Nat.div_eq_of_lt hlt, Nat.mod_eq_of_lt hlt,
      if_neg hm.ne', Nat.zero_mul, Nat.zero_add]
    rfl
  · rw [Nat.min_eq_right hge, blocksBound, blocksBound, Nat.div_eq_sub_div hb hge, Nat.mod_eq_sub_mod hge, Nat.succ_mul]
    omega

theorem frameBound_eq (bmax n : Nat) (bck cck csz : Bool) :
    frameBound bmax n bck cck csz = (7 + 8 * csz.toNat) + blocksBound bck bmax n + (4 + 4 * cck.toNat) := rfl

/-! ### A region becomes a data block (43_frame.md rule R179 step W2) -/

/-- The data block of a scanned region: its raw bytes, or its Sequences and the pending literals (R123, R126). -/
def State.dataBlock (qs : List Sequence) (u : State) : DataBlock :=
  if u.stores then .stored u.rawBlock else .compressed qs (u.pendingLits u.int.blkHi.toNat) 0#4

theorem dataBlock_of_stores (qs : List Sequence) {u : State} (h : u.stores = true) :
    u.dataBlock qs = .stored u.rawBlock := if_pos h

theorem dataBlock_of_not_stores (qs : List Sequence) {u : State} (h : u.stores = false) :
    u.dataBlock qs = .compressed qs (u.pendingLits u.int.blkHi.toNat) 0#4 :=
  if_neg (ne_true_of_eq_false h)

theorem dataBlock_isStored (qs : List Sequence) (u : State) : (u.dataBlock qs).isStored = u.stores := by
  rcases Bool.eq_false_or_eq_true u.stores with h | h
  · rw [dataBlock_of_stores qs h, h]
    rfl
  · rw [dataBlock_of_not_stores qs h, h]
    rfl

/-- The payload is never longer than the raw bytes (R126). -/
theorem payload_length_le_raw (u : State) : u.payload.length ≤ u.int.blkHi.toNat - u.int.blkLo.toNat := by
  rcases Bool.eq_false_or_eq_true u.stores with h | h
  · rw [payload_of_stores h, rawBlock_length]
  · rw [payload_of_not_stores h]
    have hlt := of_decide_eq_false h
    omega

section Scanned
variable {r u : State} {qs : List Sequence} (hscans : Scans r qs u)
include hscans

theorem Scans.dataBlock_payload (hop : r.int.op = r.int.ob) : (u.dataBlock qs).payload = u.payload := by
  rcases Bool.eq_false_or_eq_true u.stores with h | h
  · rw [dataBlock_of_stores qs h, payload_of_stores h]
    rfl
  · rw [dataBlock_of_not_stores qs h, payload_of_not_stores h, hscans.stream hop]
    rfl

theorem Scans.dataBlock_bytes (hop : r.int.op = r.int.ob) :
    (u.dataBlock qs).bytes u.cfg u.int.bck = u.frameBlock := by
  rw [DataBlock.bytes, hscans.dataBlock_payload hop, dataBlock_isStored, State.frameBlock]

variable (hanchor : r.int.anchor = r.int.blkLo)
include hanchor

theorem Scans.dataBlock_output :
    (u.dataBlock qs).output (r.inBytes 0 r.int.blkLo.toNat) = r.inBytes 0 r.int.blkHi.toNat := by
  have hu := hscans.region.2
  have hinput := hscans.same.inBytes
  have hhi := hscans.same.blkHi
  have hpos := hu.pending.trans hu.pos
  rcases Bool.eq_false_or_eq_true u.stores with h | h
  · have hle : r.int.blkLo.toNat ≤ r.int.blkHi.toNat := by
      rw [← hhi, ← hscans.same.blkLo]
      exact hu.start.trans hpos
    rw [dataBlock_of_stores qs h, DataBlock.output, State.rawBlock, hinput, hhi, hscans.same.blkLo,
      inBytes_zero_append r hle]
  · rw [dataBlock_of_not_stores qs h, DataBlock.output, ← hanchor, hscans.replays, State.pendingLits, hinput,
      inBytes_zero_append r hpos, hhi]

theorem Scans.dataBlock_legal {h : Header} (hop : r.int.op = r.int.ob)
    (hwin : r.int.winLo.toNat = if h.indep then r.int.blkLo.toNat else 0)
    (hmax : r.int.blkHi.toNat ≤ r.int.blkLo.toNat + blockMax h.code.toNat) :
    (u.dataBlock qs).legal h (r.inBytes 0 r.int.blkLo.toNat) = true := by
  have hraw := payload_length_le_raw u
  rw [hscans.same.blkHi, hscans.same.blkLo] at hraw
  rw [DataBlock.legal_iff, hscans.dataBlock_payload hop, hscans.dataBlock_output hanchor, State.inBytes_length,
    State.inBytes_length]
  refine ⟨by omega, hmax, ?_⟩
  rcases Bool.eq_false_or_eq_true u.stores with hs | hs
  · rw [dataBlock_of_stores qs hs]
    exact trivial
  · rw [dataBlock_of_not_stores qs hs]
    have hreach : (if h.indep then 0 else r.int.blkLo.toNat) = r.int.anchor.toNat - r.int.winLo.toNat := by
      rw [hanchor, hwin]
      split_ifs <;> omega
    refine ⟨hreach ▸ hscans.legal, ?_⟩
    rw [State.pendingLits, State.inBytes_length]
    exact (Nat.sub_le ..).trans_lt u.int.blkHi.isLt

end Scanned

theorem frameBlock_length (u : State) : u.frameBlock.length = 4 + u.payload.length + 4 * u.int.bck.toNat := by
  have hword : (encode (.bsize u.stores (BitVec.ofNat 31 u.payload.length))).length = 4 := leBytes_length ..
  rw [State.frameBlock, List.length_append, List.length_append, hword]
  exact congrArg (4 + u.payload.length + ·) (blockSum_length u.cfg u.int.bck u.payload)

/-- The last step of a data block's region writes the block and counts it (step W2). -/
theorem engineStep_closes_block {u : State} (hu : Region u) (hlast : u.int.blkHi.toNat < u.int.pos.toNat + u.cfg.mfLimit)
    (hframe : u.status.frameCmd = true) (h4 : 4 ≤ u.int.ob.toNat) (hlen : u.payload.length < 2 ^ 31) :
    ∃ v, engineStep u = countRegion v ∧ v.int.op.toNat = u.int.ob.toNat - 4 + u.frameBlock.length
      ∧ HasWritten (u.int.ob.toNat - 4) u.frameBlock u v := by
  have hroom := hu.room
  have hraw := payload_length_le_raw u
  have hcap := u.opr.outCap.isLt
  have hbck := u.int.bck.toNat_le
  rw [compressBound] at hroom
  obtain ⟨w, hw, hsettled⟩ := settlePayload_emitLast hu.out hu.last_room hu.raw_room
  obtain ⟨hop, hv⟩ := writeBlockCksum_hasWritten hsettled h4 hlen (by omega)
  refine ⟨_, ?_, (congrArg BitVec.toNat hop).trans (toNat_w32 ?_), hv⟩
  · rw [engineStep_scan hu.point, scanState, if_neg (Nat.not_le.2 hlast), hframe, if_pos rfl, endFrameBlock_eq, hw]
  · rw [frameBlock_length]
    omega

end Sys2Proof.Machine
end

section
namespace Sys2Proof.Machine

/-! ### CFRAME between two blocks (43_frame.md rule R179 step W2) -/

/-- `u` differs from `s` at most in what the frame writer moves: `STATUS`, result registers, the table, `OUT` and the
internal registers. -/
def SameWriter (s u : State) : Prop :=
  u = { s with status := u.status, res := u.res, ht := u.ht, outb := u.outb, int := u.int }

theorem SameWriter.trans {s t u : State} (h : SameWriter s t) (h' : SameWriter t u) : SameWriter s u := by
  unfold SameWriter at h h'
  rw [h] at h'
  exact h'

theorem SameWriter.opr {s u : State} (h : SameWriter s u) : u.opr = s.opr := congrArg (fun v => v.opr) h
theorem SameWriter.cfg {s u : State} (h : SameWriter s u) : u.cfg = s.cfg := congrArg (fun v => v.cfg) h
theorem SameWriter.err {s u : State} (h : SameWriter s u) : u.err = s.err := congrArg (fun v => v.err) h

theorem SameWriter.inBytes {s u : State} (h : SameWriter s u) : u.inBytes = s.inBytes := by
  unfold SameWriter at h
  rw [h]
  rfl

theorem SameWriter.outFree {s u : State} (h : SameWriter s u) : u.outFree = s.outFree := by
  unfold SameWriter at h
  rw [h]
  rfl

/-- `u` differs from `s` at most in the table, in `OUT` and in the registers that a region uses. -/
def SameFrame (s u : State) : Prop :=
  u = { s with ht := u.ht, outb := u.outb, int := { u.int with
    indep := s.int.indep, bck := s.int.bck, cck := s.int.cck, bmax := s.int.bmax, cc := s.int.cc } }

theorem SameFrame.trans {s t u : State} (h : SameFrame s t) (h' : SameFrame t u) : SameFrame s u := by
  unfold SameFrame at h h'
  rw [h] at h'
  exact h'

theorem SameFrame.sameWriter {s u : State} (h : SameFrame s u) : SameWriter s u := by
  unfold SameFrame at h
  rw [h]
  rfl

theorem SameRegion.sameFrame {s u : State} (h : SameRegion s u) : SameFrame s u := by
  unfold SameRegion at h
  rw [h]
  rfl

theorem HasWritten.sameFrame {lo : Nat} {bs : List Byte} {s u : State} (h : HasWritten lo bs s u) : SameFrame s u := by
  rw [h.same]
  rfl

/-- A frame's header and data blocks, without its trailer. -/
def bodyBytes (cfg : Params) (h : Header) (bs : List DataBlock) : List Byte :=
  h.bytes cfg ++ (bs.map fun b => b.bytes cfg h.bck).flatten

theorem bodyBytes_append (cfg : Params) (h : Header) (bs : List DataBlock) (b : DataBlock) :
    bodyBytes cfg h (bs ++ [b]) = bodyBytes cfg h bs ++ b.bytes cfg h.bck := by
  rw [bodyBytes, List.map_append, List.flatten_append, ← List.append_assoc, bodyBytes]
  exact congrArg (h.bytes cfg ++ (bs.map fun b => b.bytes cfg h.bck).flatten ++ ·) (List.append_nil _)

/-- The writer, started in `s0`, has written the header `h` and the data blocks `bs`, the first ones of its input; the rest
of it has room. -/
structure Writing (s0 : State) (h : Header) (bs : List DataBlock) (s : State) : Prop where
  same : SameWriter s0 s
  status : s.status = { state := .busy, fsm := .blocks, lastCmd := 0x04#8 }
  res : s.res = { h.results s0.cfg with blockIdx := w32 bs.length }
  point : s.int.point = .nextBlock
  indep : s.int.indep = h.indep
  bck : s.int.bck = h.bck
  cck : s.int.cck = h.cck
  bmax : s.int.bmax.toNat = blockMax h.code.toNat
  pos : s.int.pos.toNat = min s0.opr.inLen.toNat (bs.length * blockMax h.code.toNat)
  cc : s.int.cc = if h.cck then s0.inBytes 0 s.int.pos.toNat else []
  op : s.int.op.toNat = (bodyBytes s0.cfg h bs).length
  bytes : s.outBytes 0 (bodyBytes s0.cfg h bs).length = bodyBytes s0.cfg h bs
  outside : SameOutBut 0 s0.opr.outCap.toNat s0 s
  cut : CutBlocks h (s0.inBytes 0 s0.opr.inLen.toNat) bs
  count : bs.length ≤ (s0.opr.inLen.toNat + blockMax h.code.toNat - 1) / blockMax h.code.toNat
  room : (bodyBytes s0.cfg h bs).length
      + blocksBound h.bck (blockMax h.code.toNat) (s0.opr.inLen.toNat - s.int.pos.toNat) + (4 + 4 * h.cck.toNat)
    ≤ frameBound (blockMax h.code.toNat) s0.opr.inLen.toNat h.bck h.cck h.csz

theorem blockMax_pos (code : Nat) : 0 < blockMax code := Nat.two_pow_pos _

theorem Writing.busy {s0 s : State} {h : Header} {bs : List DataBlock} (hw : Writing s0 h bs s) : s.busy = true := by
  rw [State.busy, hw.status]
  rfl

/-- The blocks written so far give the input up to `pos`. -/
theorem Writing.output {s0 s : State} {h : Header} {bs : List DataBlock} (hw : Writing s0 h bs s) :
    blocksOutput [] bs = s0.inBytes 0 s.int.pos.toNat := by
  rw [hw.cut.whole, take_inBytes, ← hw.pos]

/-- A region opened with room for its worst case (R88, R123). -/
theorem region_openRegion {s : State} {lo hi winLo ob : Nat} (hmf : 9 ≤ s.cfg.mfLimit) (hwin : winLo ≤ lo) (hlo : lo ≤ hi)
    (hhi : hi ≤ s.opr.inLen.toNat) (hroom : ob + compressBound (hi - lo) ≤ s.opr.outCap.toNat) :
    Region (s.openRegion lo hi winLo ob) := by
  have hn := hhi.trans_lt s.opr.inLen.isLt
  have hblkLo : (s.openRegion lo hi winLo ob).int.blkLo.toNat = lo := toNat_w32 (hlo.trans_lt hn)
  have hblkHi : (s.openRegion lo hi winLo ob).int.blkHi.toNat = hi := toNat_w32 hn
  have hwinLo : (s.openRegion lo hi winLo ob).int.winLo.toNat = winLo := toNat_w32 ((hwin.trans hlo).trans_lt hn)
  have hob : (s.openRegion lo hi winLo ob).int.ob.toNat = ob :=
    toNat_w32 ((Nat.le_add_right ..).trans_lt (hroom.trans_lt s.opr.outCap.isLt))
  refine ⟨rfl, hmf, ?_, Nat.le_refl _, Nat.le_refl _, ?_, ?_, ?_, Nat.le_refl _, ?_, ?_⟩
  · rw [hwinLo, hblkLo]
    exact hwin
  · exact hblkLo.trans_le (hlo.trans_eq hblkHi.symm)
  · exact hblkHi.trans_le hhi
  · rw [hblkHi]
    exact openRegion_mlimit s lo winLo ob hn
  · exact (congrArg (255 * ·) (Nat.sub_self _)).trans_le (Nat.zero_le _)
  · rw [hob, hblkHi, hblkLo]
    exact hroom

/-- The writer at the head of a block's region (steps W2, R185, R186). -/
structure BlockOpened (h : Header) (s r : State) : Prop where
  region : Region r
  same : SameFrame s r
  outb : r.outb = s.outb
  blkLo : r.int.blkLo = s.int.pos
  pos : r.int.pos = r.int.blkLo
  anchor : r.int.anchor = r.int.blkLo
  blkHi : r.int.blkHi.toNat = min s.opr.inLen.toNat (s.int.pos.toNat + blockMax h.code.toNat)
  winLo : r.int.winLo.toNat = if h.indep then r.int.blkLo.toNat else 0
  ob : r.int.ob.toNat = s.int.op.toNat + 4
  op : r.int.op = r.int.ob

/-- A block of `b`'s bytes has been written behind what `s` had written, but not yet counted (step W2). -/
structure BlockWritten (s0 : State) (h : Header) (s : State) (b : DataBlock) (v : State) : Prop where
  same : SameFrame s v
  blkLo : v.int.blkLo = s.int.pos
  blkHi : v.int.blkHi.toNat = min s0.opr.inLen.toNat (s.int.pos.toNat + blockMax h.code.toNat)
  op : v.int.op.toNat = s.int.op.toNat + (b.bytes s0.cfg h.bck).length
  bytes : v.outBytes s.int.op.toNat (b.bytes s0.cfg h.bck).length = b.bytes s0.cfg h.bck
  outside : SameOutBut s.int.op.toNat s0.opr.outCap.toNat s v
  payload : b.payload.length ≤ v.int.blkHi.toNat - s.int.pos.toNat
  legal : b.legal h (s0.inBytes 0 s.int.pos.toNat) = true
  output : b.output (s0.inBytes 0 s.int.pos.toNat) = s0.inBytes 0 v.int.blkHi.toNat

section Block
variable {s0 s : State} {h : Header} {bs : List DataBlock} (hw : Writing s0 h bs s)
  (hcap : frameBound (blockMax h.code.toNat) s0.opr.inLen.toNat h.bck h.cck h.csz ≤ s0.opr.outCap.toNat)
include hw

/-- The room for the next block and for what follows it (R181). -/
theorem Writing.block_room (hlt : s.int.pos.toNat < s0.opr.inLen.toNat) :
    let next := min s0.opr.inLen.toNat (s.int.pos.toNat + blockMax h.code.toNat)
    s.int.op.toNat + blockBound h.bck (next - s.int.pos.toNat)
      + blocksBound h.bck (blockMax h.code.toNat) (s0.opr.inLen.toNat - next) + (4 + 4 * h.cck.toNat)
    ≤ frameBound (blockMax h.code.toNat) s0.opr.inLen.toNat h.bck h.cck h.csz := by
  intro next
  have hroom := hw.room
  have hfirst : min (s0.opr.inLen.toNat - s.int.pos.toNat) (blockMax h.code.toNat) = next - s.int.pos.toNat := by omega
  have hrest : s0.opr.inLen.toNat - s.int.pos.toNat - (next - s.int.pos.toNat) = s0.opr.inLen.toNat - next := by omega
  rw [blocksBound_eq_add h.bck (blockMax_pos _) (Nat.sub_pos_of_lt hlt), hfirst, hrest, ← hw.op] at hroom
  omega

include hcap

theorem Writing.opened (hmf : 9 ≤ s0.cfg.mfLimit) (hlt : s.int.pos.toNat < s0.opr.inLen.toNat) :
    BlockOpened h s (nextBlock s) := by
  have hbound := (hw.block_room hlt).trans hcap
  rw [blockBound, ← hw.same.opr] at hbound
  rw [← hw.same.opr] at hlt
  rw [← hw.same.cfg] at hmf
  have hcapw := s.opr.outCap.isLt
  have hhi : (w32 (min s.opr.inLen.toNat (s.int.pos.toNat + blockMax h.code.toNat))).toNat
      = min s.opr.inLen.toNat (s.int.pos.toNat + blockMax h.code.toNat) :=
    toNat_w32 ((Nat.min_le_left ..).trans_lt s.opr.inLen.isLt)
  have hwin : (w32 (if s.int.indep then s.int.pos.toNat else 0)).toNat
      = if h.indep then (w32 s.int.pos.toNat).toNat else 0 := by
    rw [w32_toNat, hw.indep]
    cases h.indep
    · rfl
    · exact congrArg BitVec.toNat (w32_toNat s.int.pos)
  have hclear : (if s.int.indep then s.mfClear else s) = { s with ht := if s.int.indep then [] else s.ht } := by
    split_ifs <;> rfl
  rw [nextBlock_of_lt hlt, hw.bmax, hclear]
  refine ⟨region_openRegion hmf ?_ ?_ (Nat.min_le_left ..) ?_, rfl, rfl, w32_toNat _, rfl, rfl, hhi, hwin,
    toNat_w32 (by omega), rfl⟩
  · split_ifs <;> omega
  · omega
  · show s.int.op.toNat + 4 + _ ≤ s.opr.outCap.toNat
    omega

omit hcap

/-- A block written and counted leaves the writer between two blocks (step W2). -/
theorem Writing.counted {b : DataBlock} {v : State} (hlt : s.int.pos.toNat < s0.opr.inLen.toNat)
    (hv : BlockWritten s0 h s b v) : Writing s0 h (bs ++ [b]) (countRegion v) := by
  have hsame := hv.same
  have hhi := hv.blkHi
  have hpos := hw.pos
  have hlen : (bs ++ [b]).length = bs.length + 1 := List.length_append
  have hnext : v.int.blkHi.toNat = min s0.opr.inLen.toNat ((bs ++ [b]).length * blockMax h.code.toNat) := by
    rw [hhi, hlen, Nat.succ_mul]
    omega
  have hbody : (bodyBytes s0.cfg h (bs ++ [b])).length = s.int.op.toNat + (b.bytes s0.cfg h.bck).length := by
    rw [bodyBytes_append, List.length_append, hw.op]
  refine ⟨hw.same.trans (hsame.sameWriter.trans rfl), (congrArg (fun w => w.status) hsame).trans hw.status, ?_, rfl,
    (congrArg (fun w => w.int.indep) hsame).trans hw.indep, (congrArg (fun w => w.int.bck) hsame).trans hw.bck,
    (congrArg (fun w => w.int.cck) hsame).trans hw.cck, (congrArg (fun w => w.int.bmax.toNat) hsame).trans hw.bmax,
    hnext, ?_, hv.op.trans hbody.symm, ?_, hw.outside.trans (hv.outside.mono (Nat.zero_le _) (Nat.le_refl _)), ?_, ?_, ?_⟩
  · have hres : v.res = s.res := congrArg (fun w => w.res) hsame
    show ({ v.res with blockIdx := v.res.blockIdx + 1#32 } : Results) = _
    rw [hres, hw.res, hlen, w32_succ]
  · have hcc : v.int.cc = s.int.cc := congrArg (fun w => w.int.cc) hsame
    have hcck : v.int.cck = h.cck := (congrArg (fun w => w.int.cck) hsame).trans hw.cck
    show v.int.cc ++ (if v.int.cck then v.inBytes v.int.blkLo.toNat (v.int.blkHi.toNat - v.int.blkLo.toNat) else []) = _
    rw [hcc, hcck, hw.cc, hv.blkLo, (hw.same.trans hsame.sameWriter).inBytes]
    cases h.cck
    · rfl
    · exact inBytes_zero_append s0 (by omega)
  · have hbefore : v.outBytes 0 s.int.op.toNat = s.outBytes 0 s.int.op.toNat :=
      outBytes_congr fun i _ hi => hv.outside.outByte hsame.sameWriter.outFree (.inl (hi.trans_eq (Nat.zero_add _)))
    show v.outBytes 0 _ = _
    rw [hbody, outBytes_append, Nat.zero_add, hv.bytes, bodyBytes_append, hbefore, hw.op, hw.bytes]
  · refine hw.cut.append (hw.output ▸ hv.legal) ?_
    rw [hw.output, hv.output, take_inBytes, hnext, hlen]
  · rw [hlen, Nat.le_div_iff_mul_le (blockMax_pos _), Nat.succ_mul]
    omega
  · have hroom := hw.block_room hlt
    have hpay := hv.payload
    have hblock : (b.bytes s0.cfg h.bck).length ≤ blockBound h.bck (v.int.blkHi.toNat - s.int.pos.toNat) := by
      rw [b.bytes_length, blockBound, compressBound]
      omega
    rw [← hhi] at hroom
    rw [hbody]
    show _ + blocksBound _ _ (_ - v.int.blkHi.toNat) + _ ≤ _
    omega

/-- The scan of a block's region ends, and the block is written (step W2). -/
theorem Writing.closed {r u : State} {qs : List Sequence} (ho : BlockOpened h s r) (hscans : Scans r qs u)
    (hlast : u.int.blkHi.toNat < u.int.pos.toNat + u.cfg.mfLimit) :
    ∃ v, Runs 1 u (countRegion v) ∧ BlockWritten s0 h s (u.dataBlock qs) v := by
  have hsame : SameFrame s u := ho.same.trans hscans.same.sameFrame
  have hlo : u.int.blkLo = s.int.pos := hscans.same.blkLo.trans ho.blkLo
  have hhi : u.int.blkHi.toNat = min s0.opr.inLen.toNat (s.int.pos.toNat + blockMax h.code.toNat) := by
    rw [hscans.same.blkHi, ho.blkHi, hw.same.opr]
  have hob : u.int.ob.toNat = s.int.op.toNat + 4 := (congrArg BitVec.toNat hscans.same.ob).trans ho.ob
  have hmax := blockMax_le h.code
  have hpay := payload_length_le_raw u
  rw [hlo] at hpay
  have hframe : u.status.frameCmd = true := by
    rw [(congrArg (fun w => w.status) hsame).trans hw.status]
    rfl
  obtain ⟨v, hstep, hop, hv⟩ := engineStep_closes_block hscans.region.2 hlast hframe (by omega) (by omega)
  have hvhi : v.int.blkHi = u.int.blkHi := congrArg (fun w => w.int.blkHi) hv.same
  have hblock : u.frameBlock = (u.dataBlock qs).bytes s0.cfg h.bck := by
    rw [← hscans.dataBlock_bytes ho.op, (hw.same.trans hsame.sameWriter).cfg,
      (congrArg (fun w => w.int.bck) hsame).trans hw.bck]
  have hopened : SameOutBut s.int.op.toNat s0.opr.outCap.toNat s r := fun _ _ => by rw [ho.outb]
  have hscanned := hscans.outside.2
  have hwritten := hv.outside
  rw [hob, Nat.add_sub_cancel, hblock] at hop hv
  rw [hob, Nat.add_sub_cancel, (hw.same.trans hsame.sameWriter).opr] at hwritten
  rw [ho.op, ho.ob, (hw.same.trans ho.same.sameWriter).opr] at hscanned
  have hlegal := hscans.dataBlock_legal (h := h) ho.anchor ho.op ho.winLo
    (by rw [ho.blkHi, ho.blkLo]; exact Nat.min_le_right ..)
  have houtput := hscans.dataBlock_output ho.anchor
  rw [(hw.same.trans ho.same.sameWriter).inBytes, ho.blkLo] at hlegal houtput
  refine ⟨v, hstep ▸ runs_step ((congrArg (fun w => w.busy) hsame).trans hw.busy), hsame.trans hv.sameFrame,
    (congrArg (fun w => w.int.blkLo) hv.same).trans hlo, hvhi ▸ hhi, hop, hv.bytes,
    (hopened.trans (hscanned.mono (Nat.le_add_right ..) (Nat.le_refl _))).trans hwritten, ?_, hlegal, ?_⟩
  · rw [hscans.dataBlock_payload ho.op, hvhi]
    exact hpay
  · rw [hvhi, hscans.same.blkHi]
    exact houtput

include hcap

/-- The writer makes a data block of the next bytes of its input (step W2). -/
theorem Writing.block (hmf : 9 ≤ s0.cfg.mfLimit) (hlt : s.int.pos.toNat < s0.opr.inLen.toNat) :
    ∃ j b u, j + 3 * (s0.opr.inLen.toNat - u.int.pos.toNat) ≤ 3 * (s0.opr.inLen.toNat - s.int.pos.toNat)
      ∧ s.int.pos.toNat < u.int.pos.toNat ∧ Runs j s u ∧ Writing s0 h (bs ++ [b]) u := by
  have ho := hw.opened hcap hmf hlt
  have hopens : Runs 1 s (nextBlock s) := engineStep_nextBlock hw.point ▸ runs_step hw.busy
  obtain ⟨j, qs, u, hj, hscans, hlast, hscan⟩ :=
    ho.region.scans ((congrArg (fun w => w.busy) ho.same).trans hw.busy)
  obtain ⟨v, hcloses, hv⟩ := hw.closed ho hscans hlast
  have hhi := hv.blkHi
  have hmaxpos := blockMax_pos h.code.toNat
  have hforward : s.int.pos.toNat < v.int.blkHi.toNat := by omega
  rw [ho.blkHi, ho.pos, ho.blkLo, hw.same.opr, ← hhi] at hj
  refine ⟨1 + j + 1, _, _, ?_, hforward, (hopens.trans hscan).trans hcloses, hw.counted hlt hv⟩
  show _ + 3 * (_ - v.int.blkHi.toNat) ≤ _
  omega

/-- The writer cuts all its input into data blocks (step W2). -/
theorem Writing.blocks (hmf : 9 ≤ s0.cfg.mfLimit) : ∃ j bs' u, j ≤ 3 * (s0.opr.inLen.toNat - s.int.pos.toNat)
    ∧ s0.opr.inLen.toNat ≤ u.int.pos.toNat ∧ Runs j s u ∧ Writing s0 h bs' u := by
  induction hn : s0.opr.inLen.toNat - s.int.pos.toNat using Nat.strong_induction_on generalizing s bs with
  | _ n ih =>
    rcases Nat.lt_or_ge s.int.pos.toNat s0.opr.inLen.toNat with hlt | hge
    · obtain ⟨j, b, u, hj, hpos, hruns, hu⟩ := hw.block hcap hmf hlt
      obtain ⟨k, bs', v, hk, hend, hruns', hv⟩ := ih _ (by omega) hu rfl
      exact ⟨j + k, bs', v, by omega, hend, hruns.trans hruns', hv⟩
    · exact ⟨0, bs, s, Nat.zero_le _, hge, Runs.refl s, hw⟩

end Block

end Sys2Proof.Machine
end

section
namespace Sys2Proof.Machine

/-! ### CFRAME's header and trailer (43_frame.md rules R179 steps W1, W3, R183, R184) -/

/-- The header that CFRAME writes for its options and input (R183). -/
def writerHead (s : State) : Header where
  indep := optIndep s.opr.options
  bck := optBck s.opr.options
  csz := optCsz s.opr.options
  cck := optCck s.opr.options
  did := false
  code := BitVec.ofNat 3 s.cfg.blockMaxCode
  csize := BitVec.ofNat 64 s.opr.inLen.toNat
  dictId := 0#32

theorem writerHead_code {s : State} (hcfg : s.cfg.wf = true) : (writerHead s).code.toNat = s.cfg.blockMaxCode := by
  have hle := blockMaxCode_le hcfg
  rw [writerHead, BitVec.toNat_ofNat]
  omega

theorem writerHead_csize (s : State) : (writerHead s).csize.toNat = s.opr.inLen.toNat := by
  have hn := s.opr.inLen.isLt
  rw [writerHead, BitVec.toNat_ofNat]
  omega

theorem writerHead_descriptor {s : State} (hcfg : s.cfg.wf = true) :
    writerDescriptor s.cfg s.opr.options s.opr.inLen.toNat = (writerHead s).descriptor := by
  have hbd : BitVec.ofNat 8 (16 * s.cfg.blockMaxCode) = bdByte (writerHead s).code := by
    rw [bdByte, writerHead_code hcfg]
  have hsize : encode (.csize (writerHead s).csize) = leBytes 8 s.opr.inLen.toNat := by
    rw [encode, writerHead_csize]
  have hfields : (writerHead s).csizeField ++ (writerHead s).dictidField
      = if optCsz s.opr.options then leBytes 8 s.opr.inLen.toNat else [] := by
    rw [Header.csizeField, hsize]
    exact List.append_nil _
  rw [Header.descriptor_eq, hfields, ← hbd]
  rfl

theorem Header.bytes_length (cfg : Params) (h : Header) : (h.bytes cfg).length = 7 + 8 * h.csz.toNat + 4 * h.did.toNat := by
  rw [Header.bytes, List.length_append, List.length_append, h.descriptor_length]
  show 4 + (2 + 8 * h.csz.toNat + 4 * h.did.toNat) + 1 = _
  omega

theorem bodyBytes_nil (cfg : Params) (h : Header) : bodyBytes cfg h [] = h.bytes cfg := List.append_nil _

theorem writerHead_results (s : State) : (writerHead s).results s.cfg =
    { desc := descWord (writerHead s).flg (bdByte (writerHead s).code) (headerByte s.cfg (writerHead s).descriptor)
      csizeLo := if optCsz s.opr.options then s.opr.inLen else 0#32 } := by
  have hlow : w32 (writerHead s).csize.toNat = s.opr.inLen := by rw [writerHead_csize, w32_toNat]
  have hhigh : w32 ((writerHead s).csize.toNat / 2 ^ 32) = 0#32 := by
    rw [writerHead_csize, Nat.div_eq_of_lt s.opr.inLen.isLt]
  rw [Header.results, hlow, hhigh, ite_self]
  rfl

/-- The step that writes the header, in terms of the header's data. -/
theorem writeHeader_writerHead {s : State} (hcfg : s.cfg.wf = true) :
    writeHeader (s.startCmd .cframe).withOptions = { (s.startCmd .cframe).withOptions with
      ht := [], outb := s.outb.writeBytes 0 ((writerHead s).bytes s.cfg)
      status := { state := .busy, fsm := .blocks, lastCmd := 0x04#8 }
      res := (writerHead s).results s.cfg
      int := { (s.startCmd .cframe).withOptions.int with
        flg := (writerHead s).flg, bd := bdByte (writerHead s).code, op := w32 ((writerHead s).bytes s.cfg).length
        point := .nextBlock } } := by
  have hdesc := (writerHead_descriptor hcfg).trans (writerHead s).descriptor_eq
  have hbytes : magicBytes ++ ([(writerHead s).flg, bdByte (writerHead s).code]
      ++ ((writerHead s).csizeField ++ (writerHead s).dictidField)) ++ [headerByte s.cfg (writerHead s).descriptor]
      = (writerHead s).bytes s.cfg := by
    rw [← (writerHead s).descriptor_eq]
    rfl
  have hsize : (if optCsz (s.startCmd .cframe).withOptions.opr.options then 0#32
      else (s.startCmd .cframe).withOptions.res.csizeHi) = 0#32 := ite_self _
  rw [writeHeader_eq (s := (s.startCmd .cframe).withOptions) hdesc
    (congrArg (headerByte s.cfg) (writerHead s).descriptor_eq.symm), hsize, ← hbytes,
    writerHead_results]
  rfl

/-- CFRAME behind its header has written no block yet (step W1). -/
theorem writing_header {s : State} (hcfg : s.cfg.wf = true)
    (hcap : frameBound (blockMax (writerHead s).code.toNat) s.opr.inLen.toNat (writerHead s).bck (writerHead s).cck
      (writerHead s).csz ≤ s.opr.outCap.toNat) :
    Writing (s.startCmd .cframe) (writerHead s) [] (writeHeader (s.startCmd .cframe).withOptions) := by
  have hlen : ((writerHead s).bytes s.cfg).length = 7 + 8 * (writerHead s).csz.toNat :=
    (writerHead s).bytes_length s.cfg
  have hcapw := s.opr.outCap.isLt
  have hbound := hcap
  rw [frameBound_eq] at hbound
  have hfit : 0 + ((writerHead s).bytes s.cfg).length ≤ s.opr.outCap.toNat := by omega
  have hzero : 0 = min s.opr.inLen.toNat (0 * blockMax (writerHead s).code.toNat) := by
    rw [Nat.zero_mul, Nat.min_zero]
  rw [writeHeader_writerHead hcfg]
  refine ⟨rfl, rfl, rfl, rfl, rfl, rfl, rfl, ?_, hzero, ?_, ?_, ?_,
    sameOutBut_outWrite (s.startCmd .cframe) (Nat.zero_le _) hfit, cutBlocks_nil .., Nat.zero_le _, ?_⟩
  · show (w32 (blockMax s.cfg.blockMaxCode)).toNat = _
    rw [writerHead_code hcfg]
    exact toNat_w32 (blockMax_lt (Nat.lt_succ_of_le (blockMaxCode_le hcfg)))
  · show [] = if _ then [] else []
    rw [ite_self]
  · rw [bodyBytes_nil]
    exact toNat_w32 (by omega)
  · rw [bodyBytes_nil]
    exact s.outBytes_outWrite 0 _
  · rw [bodyBytes_nil, frameBound_eq]
    show ((writerHead s).bytes s.cfg).length + blocksBound _ _ (s.opr.inLen.toNat - 0) + _ ≤ _
    rw [hlen, Nat.sub_zero]
    exact Nat.le_refl _

/-! #### The trailer -/

theorem hasWritten_nil (lo : Nat) (s : State) : HasWritten lo [] s s := ⟨rfl, rfl, fun _ _ => rfl⟩

theorem HasWritten.emit {lo : Nat} {bs : List Byte} {s u : State} (h : HasWritten lo bs s u) (cs : List Byte)
    (hop : u.int.op.toNat = lo + bs.length) (hend : lo + bs.length + cs.length ≤ s.opr.outCap.toNat) :
    HasWritten lo (bs ++ cs) s (u.emit cs) ∧ (u.emit cs).int.op.toNat = lo + (bs ++ cs).length := by
  refine ⟨⟨h.withOut .., ?_, h.outside.trans (sameOutBut_outWrite u ?_ ?_)⟩, ?_⟩
  · rw [State.emit, hop]
    exact outBytes_outWrite_behind (s := u) cs h.bytes
  · omega
  · omega
  · have hcap := s.opr.outCap.isLt
    show (w32 (u.int.op.toNat + cs.length)).toNat = _
    rw [hop, List.length_append, ← Nat.add_assoc]
    exact toNat_w32 (by omega)

/-- EndMark and content checksum as they stand in a frame (R73, R82, R83). -/
def trailerBytes (cfg : Params) (cck : Bool) (content : List Byte) : List Byte :=
  encode .endmark ++ contentSum cfg cck content

theorem trailerBytes_length (cfg : Params) (cck : Bool) (content : List Byte) :
    (trailerBytes cfg cck content).length = 4 + 4 * cck.toNat := by
  rw [trailerBytes, List.length_append, contentSum]
  cases cck
  · rfl
  · exact congrArg (4 + ·) (leBytes_length 4 _)

/-- The writer with the content checksum reported, where there is one (R184). -/
def State.reportCksum (s : State) : State := { s with res := s.res.withCksum s.cfg s.int.cck s.int.cc }

/-- The trailer is written behind the last block, and the command ends (step W3). -/
theorem writeTrailer_writes {s : State} (hend : s.int.op.toNat + (4 + 4 * s.int.cck.toNat) ≤ s.opr.outCap.toNat) :
    ∃ u, HasWritten s.int.op.toNat (trailerBytes s.cfg s.int.cck s.int.cc) s.reportCksum u
      ∧ u.int.op.toNat = s.int.op.toNat + (trailerBytes s.cfg s.int.cck s.int.cc).length
      ∧ writeTrailer s = { u with status := { u.status with fsm := .finished } }.finish u.int.op u.opr.inLen := by
  have hmark : (encode .endmark).length = 4 := leBytes_length ..
  obtain ⟨hfirst, hop⟩ := (hasWritten_nil s.int.op.toNat s.reportCksum).emit (encode .endmark) rfl
    (show s.int.op.toNat + 0 + (encode .endmark).length ≤ s.opr.outCap.toNat by omega)
  rw [List.nil_append] at hfirst hop
  rcases Bool.eq_false_or_eq_true s.int.cck with hcck | hcck
  · have hsum : (encode (.cck (ck32 s.cfg s.int.cc))).length = 4 := leBytes_length ..
    obtain ⟨hboth, hop'⟩ := hfirst.emit (encode (.cck (ck32 s.cfg s.int.cc))) hop
      (show s.int.op.toNat + _ + _ ≤ s.opr.outCap.toNat by rw [hcck, Bool.toNat_true] at hend; omega)
    have hbytes : trailerBytes s.cfg s.int.cck s.int.cc = encode .endmark ++ encode (.cck (ck32 s.cfg s.int.cc)) := by
      rw [hcck]
      rfl
    rw [hbytes]
    have hmarked : (s.emit (leBytes 4 0)).int.cck = true := hcck
    refine ⟨_, hboth, hop', ?_⟩
    simp only [writeTrailer, hmarked, if_true]
    rw [State.reportCksum, Results.withCksum, hcck]
    rfl
  · have hbytes : trailerBytes s.cfg s.int.cck s.int.cc = encode .endmark := by
      rw [hcck]
      rfl
    rw [hbytes]
    have hmarked : (s.emit (leBytes 4 0)).int.cck = false := hcck
    refine ⟨_, hfirst, hop, ?_⟩
    simp only [writeTrailer, hmarked, Bool.false_eq_true, if_false]
    rw [State.reportCksum, Results.withCksum, hcck]
    rfl

/-! ### What CFRAME writes -/

/-- CFRAME, started in `s`, has written the frame `f` and ended in `t` (R179, R182 to R184). -/
structure FrameWritten (s : State) (f : Frame) (t : State) : Prop where
  status : t.status = { state := .done, fsm := .finished, lastCmd := 0x04#8 }
  err : t.err = s.err
  res : t.res = { f.results s.cfg with outLen := w32 (f.bytes s.cfg).length, inPos := s.opr.inLen }
  bytes : t.outBytes 0 (f.bytes s.cfg).length = f.bytes s.cfg
  unwritten : Unwritten 0 (f.bytes s.cfg).length s t
  room : (f.bytes s.cfg).length
    ≤ frameBound (blockMax f.head.code.toNat) s.opr.inLen.toNat f.head.bck f.head.cck f.head.csz
  cap : (f.bytes s.cfg).length ≤ s.opr.outCap.toNat
  cut : CutBlocks f.head (s.inBytes 0 s.opr.inLen.toNat) f.blocks
  content : f.content = s.inBytes 0 s.opr.inLen.toNat
  count : f.blocks.length = (s.opr.inLen.toNat + blockMax f.head.code.toNat - 1) / blockMax f.head.code.toNat

/-- The writer has written all of the frame `f`, and has only to end the command. -/
structure TrailerWritten (s0 : State) (f : Frame) (u : State) : Prop where
  same : SameWriter s0 u
  status : u.status = { state := .busy, fsm := .endMark, lastCmd := 0x04#8 }
  res : u.res = f.results s0.cfg
  op : u.int.op.toNat = (f.bytes s0.cfg).length
  bytes : u.outBytes 0 (f.bytes s0.cfg).length = f.bytes s0.cfg
  outside : SameOutBut 0 s0.opr.outCap.toNat s0 u
  room : (f.bytes s0.cfg).length
    ≤ frameBound (blockMax f.head.code.toNat) s0.opr.inLen.toNat f.head.bck f.head.cck f.head.csz

/-- The writer behind its last block (step W3). -/
def State.atTrailer (s : State) : State :=
  { s with status := { s.status with fsm := .endMark }, int := { s.int with point := .trailer } }

theorem nextBlock_of_le {s : State} (h : s.opr.inLen.toNat ≤ s.int.pos.toNat) : nextBlock s = s.atTrailer :=
  if_neg (Nat.not_lt.2 h)

section Trailer
variable {s0 s : State} {h : Header} {bs : List DataBlock} (hw : Writing s0 h bs s)
  (hend : s0.opr.inLen.toNat ≤ s.int.pos.toNat)
include hw hend

theorem Writing.count_eq :
    bs.length = (s0.opr.inLen.toNat + blockMax h.code.toNat - 1) / blockMax h.code.toNat := by
  have hpos := hw.pos
  have hmax := blockMax_pos h.code.toNat
  refine Nat.le_antisymm hw.count (Nat.le_of_lt_succ ((Nat.div_lt_iff_lt_mul hmax).2 ?_))
  rw [Nat.succ_mul]
  omega

theorem Writing.content : blocksOutput [] bs = s0.inBytes 0 s0.opr.inLen.toNat := by
  have hpos := hw.pos
  have hall : s.int.pos.toNat = s0.opr.inLen.toNat := by omega
  rw [hw.output, hall]

/-- The checksum that ends the frame is that of its content (R184). -/
theorem Writing.sums : trailerBytes s.cfg s.int.cck s.int.cc
      = trailerBytes s0.cfg h.cck (s0.inBytes 0 s0.opr.inLen.toNat)
    ∧ s.res.withCksum s.cfg s.int.cck s.int.cc
      = (Frame.mk h bs).results s0.cfg := by
  have hpos : s.int.pos.toNat = s0.opr.inLen.toNat := by
    have := hw.pos
    omega
  have hcontent : Frame.content ⟨h, bs⟩ = _ := hw.content hend
  rw [Frame.results, hcontent, hw.cck, hw.cc, hw.same.cfg, hw.res, hpos, BitVec.zero_add]
  cases h.cck
  · simp only [trailerBytes, contentSum, Results.withCksum, Bool.false_eq_true, if_false, and_self]
  · simp only [trailerBytes, contentSum, Results.withCksum, if_true, and_self]

/-- Behind the last block the writer writes the trailer (step W3). -/
theorem Writing.trailer
    (hcap : frameBound (blockMax h.code.toNat) s0.opr.inLen.toNat h.bck h.cck h.csz ≤ s0.opr.outCap.toNat) :
    ∃ u, Runs 2 s (({ u with status := { u.status with fsm := .finished } } : State).finish u.int.op u.opr.inLen)
      ∧ TrailerWritten s0 ⟨h, bs⟩ u := by
  have hopr := hw.same.opr
  obtain ⟨htrailer, hresults⟩ := hw.sums hend
  have hframe : (Frame.mk h bs).bytes s0.cfg = bodyBytes s0.cfg h bs ++ trailerBytes s.cfg s.int.cck s.int.cc := by
    rw [htrailer, ← hw.content hend]
    exact List.append_assoc ..
  have hlen : ((Frame.mk h bs).bytes s0.cfg).length
      = s.int.op.toNat + (trailerBytes s.cfg s.int.cck s.int.cc).length := by
    rw [hframe, List.length_append, hw.op]
  have hroom := hw.room
  have hcck : s.int.cck.toNat = h.cck.toNat := congrArg Bool.toNat hw.cck
  rw [← hw.op] at hroom
  set w := s.atTrailer
  have hnext : Runs 1 s w := by
    have hstep := runs_step hw.busy
    rwa [engineStep_nextBlock hw.point, nextBlock_of_le (hopr ▸ hend)] at hstep
  obtain ⟨u, hu, hop, hlast⟩ := writeTrailer_writes (s := w)
    (show s.int.op.toNat + (4 + 4 * s.int.cck.toNat) ≤ s.opr.outCap.toNat by rw [hopr]; omega)
  change u.int.op.toNat = s.int.op.toNat + (trailerBytes s.cfg s.int.cck s.int.cc).length at hop
  change HasWritten s.int.op.toNat (trailerBytes s.cfg s.int.cck s.int.cc) w.reportCksum u at hu
  have hfin : Runs 1 w (writeTrailer w) := runs_step (s := w) hw.busy
  rw [hlast] at hfin
  have hsame : SameWriter s u := by
    rw [hu.same]
    rfl
  have hout : SameOutBut s.int.op.toNat s0.opr.outCap.toNat s u := hopr ▸ hu.outside
  refine ⟨u, hnext.trans hfin, hw.same.trans hsame, ?_,
    (congrArg (fun v => v.res) hu.same).trans hresults, hop.trans hlen.symm, ?_,
    hw.outside.trans (hout.mono (Nat.zero_le _) (Nat.le_refl _)), ?_⟩
  · rw [congrArg (fun v => v.status) hu.same]
    show ({ s.status with fsm := .endMark } : Status) = _
    rw [hw.status]
  · have hbefore : u.outBytes 0 s.int.op.toNat = s.outBytes 0 s.int.op.toNat :=
      outBytes_congr fun i _ hi => hout.outByte hsame.outFree (.inl (hi.trans_eq (Nat.zero_add _)))
    rw [hlen, outBytes_append, Nat.zero_add, hbefore, hu.bytes, hw.op, hw.bytes, hframe]
  · rw [hlen, trailerBytes_length]
    show _ ≤ frameBound (blockMax h.code.toNat) _ h.bck h.cck h.csz
    omega

end Trailer

/-- The writer that has cut all its input, and written the trailer, ends with the frame (R179). -/
theorem TrailerWritten.finished {s0 u : State} {f : Frame} (hu : TrailerWritten s0 f u)
    (hcap : frameBound (blockMax f.head.code.toNat) s0.opr.inLen.toNat f.head.bck f.head.cck f.head.csz
      ≤ s0.opr.outCap.toNat)
    (hcut : CutBlocks f.head (s0.inBytes 0 s0.opr.inLen.toNat) f.blocks)
    (hcontent : f.content = s0.inBytes 0 s0.opr.inLen.toNat)
    (hcount : f.blocks.length = (s0.opr.inLen.toNat + blockMax f.head.code.toNat - 1) / blockMax f.head.code.toNat) :
    FrameWritten s0 f
      (({ u with status := { u.status with fsm := .finished } } : State).finish u.int.op u.opr.inLen) := by
  set v : State := { u with status := { u.status with fsm := .finished } }
  have hread := outBytes_finish v u.int.op u.opr.inLen
  have hunwritten := finish_unwritten (u := v) (outLen := u.int.op) (inPos := u.opr.inLen) hu.outside hu.same.outFree
    hu.same.opr (Nat.zero_le _)
  rw [hu.op] at hread hunwritten
  refine ⟨?_, hu.same.err, ?_, hread.trans hu.bytes, hunwritten, hu.room, hu.room.trans hcap, hcut, hcontent, hcount⟩
  · show ({ u.status with fsm := .finished, state := .done } : Status) = _
    rw [hu.status]
  · show ({ u.res with outLen := u.int.op, inPos := u.opr.inLen } : Results) = _
    rw [hu.res, hu.same.opr, ← hu.op, w32_toNat]

theorem le_mfLimit {cfg : Params} (h : cfg.wf = true) : 9 ≤ cfg.mfLimit := by
  simp only [Params.wf, Bool.and_eq_true, decide_eq_true_eq] at h
  obtain ⟨⟨⟨-, hmf⟩, -⟩, -⟩ := h
  exact hmf

/-- CFRAME with room for the frame bound writes a frame (R179). -/
theorem exec_cframe {s : State} (hcfg : s.cfg.wf = true) (hb : s.busy = false)
    (hroom : frameBound (blockMax s.cfg.blockMaxCode) s.opr.inLen.toNat (optBck s.opr.options) (optCck s.opr.options)
      (optCsz s.opr.options) ≤ s.opr.outCap.toNat) :
    ∃ t bs, exec .cframe s = .next t ∧ FrameWritten (s.startCmd .cframe) ⟨writerHead s, bs⟩ t := by
  have hcap := hroom
  rw [← writerHead_code hcfg] at hcap
  have henter : Runs 1 (s.startCmd .cframe) (writeHeader (s.startCmd .cframe).withOptions) := by
    have hstep : engineStep (s.startCmd .cframe) = _ := enterCframe_of_room hroom
    exact hstep ▸ runs_step rfl
  obtain ⟨j, bs, u, hj, hend, hruns, hu⟩ := (writing_header hcfg hcap).blocks hcap (le_mfLimit hcfg)
  obtain ⟨v, htrailer, hv⟩ := hu.trailer hend hcap
  have ht := hv.finished hcap hu.cut (hu.content hend) (hu.count_eq hend)
  have hdone := congrArg (·.state == .busy) ht.status
  have hfuel : 1 + j + 2 ≤ s.fuel := by
    have hle : j ≤ 3 * s.opr.inLen.toNat := hj.trans (Nat.mul_le_mul_left 3 (Nat.sub_le ..))
    rw [State.fuel]
    omega
  exact ⟨_, bs, congrArg Host.Outcome.next (runCommand_of_runs hb ((henter.trans hruns).trans htrailer) hfuel hdone), ht⟩

end Sys2Proof.Machine
end

section
namespace Sys2Proof.Machine

/-! ### CFRAME, and DFRAME on what it wrote (43_frame.md rules R179, R182, R183, R188) -/

/-- `DESC` of the header that CFRAME writes (R75, R76, R79, R183). -/
theorem writerHead_desc {s : State} (hcfg : s.cfg.wf = true) : ((writerHead s).results s.cfg).desc.toNat
    = flgNumber s.opr.options + 2 ^ 8 * (16 * s.cfg.blockMaxCode)
      + 2 ^ 16 * ((ck32 s.cfg (writerHead s).descriptor).toNat / 2 ^ 8 % 2 ^ 8) := by
  have hflg : (writerHead s).flg = BitVec.ofNat 8 (flgNumber s.opr.options) := flgByte_options s.opr.options
  have hlt := flgNumber_lt s.opr.options
  have hcode := blockMaxCode_le hcfg
  have hhc := Nat.mod_lt ((ck32 s.cfg (writerHead s).descriptor).toNat / 2 ^ 8) (show 2 ^ 8 > 0 by decide)
  rw [writerHead_results, hflg, bdByte, writerHead_code hcfg, headerByte_eq, descWord_ofNat hlt (by omega) hhc]
  exact toNat_w32 (by omega)

theorem FrameWritten.outLen {s t : State} {f : Frame} (ht : FrameWritten s f t) :
    t.res.outLen.toNat = (f.bytes s.cfg).length := by
  rw [ht.res]
  exact toNat_w32 (ht.cap.trans_lt s.opr.outCap.isLt)

/-- The result registers after CFRAME (R179, R184). -/
theorem FrameWritten.results {s t : State} {bs : List DataBlock}
    (ht : FrameWritten (s.startCmd .cframe) ⟨writerHead s, bs⟩ t) : t.res = { (writerHead s).results s.cfg with
      outLen := t.res.outLen, inPos := s.opr.inLen, blockIdx := w32 bs.length
      cksum := if optCck s.opr.options then ck32 s.cfg (s.inBytes 0 s.opr.inLen.toNat) else 0#32 } := by
  have hcontent : Frame.content ⟨writerHead s, bs⟩ = s.inBytes 0 s.opr.inLen.toNat := ht.content
  have hres := ht.res
  rw [Frame.results_eq, hcontent] at hres
  rw [hres]
  rfl

/-- Settles O46: the frame written has the options' header, and its trailer the input's checksum. -/
theorem cframeEndsDone : Obligations.CframeEndsDone := by
  intro s hcfg hb n bmax bit bound flg bd descriptor hroom
  obtain ⟨t, bs, hexec, ht⟩ := exec_cframe hcfg hb hroom
  have hcount : bs.length = (n + blockMax (writerHead s).code.toNat - 1) / blockMax (writerHead s).code.toNat := ht.count
  have hlen : t.res.outLen.toNat ≤ frameBound (blockMax (writerHead s).code.toNat) n (writerHead s).bck (writerHead s).cck
    (writerHead s).csz := ht.outLen.trans_le ht.room
  have hdesc : (writerHead s).descriptor = descriptor :=
    (writerHead_descriptor hcfg).symm.trans (writerDescriptor_eq ..)
  have hres := ht.results
  rw [writerHead_code hcfg] at hcount hlen
  rw [hcount] at hres
  refine ⟨t, hexec, ht.status, ht.err, ?_, ?_, hlen, exec_kept hexec, ht.outLen ▸ ht.unwritten⟩
  · rw [hres, writerHead_results]
    rfl
  · rw [hres, ← hdesc]
    exact writerHead_desc hcfg

/-- CFRAME that has raised no error has had room, and has written a frame. -/
theorem frameWritten_of_exec {s t : State} (hcfg : s.cfg.wf = true) (hb : s.busy = false)
    (hexec : exec .cframe s = .next t) (herr : t.err = .none) :
    ∃ bs, FrameWritten (s.startCmd .cframe) ⟨writerHead s, bs⟩ t := by
  rcases Nat.lt_or_ge s.opr.outCap.toNat (frameBound (blockMax s.cfg.blockMaxCode) s.opr.inLen.toNat
    (optBck s.opr.options) (optCck s.opr.options) (optCsz s.opr.options)) with hno | hroom
  · rw [exec_cframe_of_no_room hb hno] at hexec
    cases hexec
    cases herr
  · obtain ⟨t', bs, hrun, ht⟩ := exec_cframe hcfg hb hroom
    obtain rfl : t' = t := by injection hrun.symm.trans hexec
    exact ⟨bs, ht⟩

theorem le_blockMaxCode {cfg : Params} (h : cfg.wf = true) : 4 ≤ cfg.blockMaxCode := by
  simp only [Params.wf, Bool.and_eq_true, decide_eq_true_eq] at h
  obtain ⟨⟨-, hcode⟩, -⟩ := h
  exact hcode

/-- The frame that CFRAME writes is one that DFRAME accepts (R187). -/
theorem FrameWritten.legal {s t : State} {bs : List DataBlock} (hcfg : s.cfg.wf = true)
    (ht : FrameWritten (s.startCmd .cframe) ⟨writerHead s, bs⟩ t) : (Frame.mk (writerHead s) bs).legal = true := by
  refine (Frame.legal_iff _).2 ⟨?_, ht.cut.legal, fun _ => ?_⟩
  · exact (le_blockMaxCode hcfg).trans_eq (writerHead_code hcfg).symm
  · rw [ht.content]
    exact (writerHead_csize s).trans (s.inBytes_length ..).symm

/-- Settles O47: the frame of the writer's header and of the blocks that the loop has written. -/
theorem cframeWritesLegalFrame : Obligations.CframeWritesLegalFrame := by
  intro s t hcfg hb hexec herr
  obtain ⟨bs, ht⟩ := frameWritten_of_exec hcfg hb hexec herr
  have hcode := writerHead_code hcfg
  refine ⟨⟨writerHead s, bs⟩, ?_, ht.legal hcfg, ht.content, rfl, rfl, rfl, rfl, rfl, hcode, ?_, fun k hk => ?_⟩
  · rw [ht.outLen]
    exact ht.bytes
  · rw [ht.count, hcode]
    rfl
  · rw [ht.cut.output k hk, take_inBytes, State.inBytes_length, hcode]
    rfl

/-! #### The checksum is all that a frame's bytes take from the parameters -/

theorem ck32_congr {c c' : Params} (h : c.checksum = c'.checksum) : ck32 c = ck32 c' := by
  funext bs
  rw [ck32, ck32, h]

theorem Frame.bytes_congr {c c' : Params} (h : c.checksum = c'.checksum) (f : Frame) : f.bytes c = f.bytes c' := by
  simp only [Frame.bytes, Header.bytes, DataBlock.bytes, headerByte, ck32_congr h]

/-- Settles O48: DFRAME reads the legal frame that CFRAME has written. -/
theorem frameRoundTrip : Obligations.FrameRoundTrip := by
  intro s t u hcfg hb hexec herr hbu hck hin
  obtain ⟨bs, ht⟩ := frameWritten_of_exec hcfg hb hexec herr
  have hlegal := ht.legal hcfg
  have hcontent : Frame.content ⟨writerHead s, bs⟩ = s.inBytes 0 s.opr.inLen.toNat := ht.content
  have hbytes : t.outBytes 0 t.res.outLen.toNat = (Frame.mk (writerHead s) bs).bytes u.cfg := by
    rw [ht.outLen, ht.bytes]
    exact Frame.bytes_congr hck.symm _
  rw [hbytes, ← List.append_nil ((Frame.mk (writerHead s) bs).bytes u.cfg)] at hin
  have hlen : (Frame.content ⟨writerHead s, bs⟩).length = s.opr.inLen.toNat := by
    rw [hcontent, State.inBytes_length]
  refine ⟨fun hroom => ?_, fun hno => exec_dframe_of_no_room hbu hin hlegal (hlen.symm ▸ hno)⟩
  obtain ⟨v, hrun, ⟨hstatus, herrv, hres, -⟩, hout⟩ := exec_dframe hbu hin hlegal (hlen.symm ▸ hroom)
  rw [hcontent, State.inBytes_length] at hout
  have houtLen : (Frame.mk (writerHead s) bs).bytes u.cfg = _ := Frame.bytes_congr hck _
  refine ⟨v, hrun, congrArg Status.state hstatus, herrv, ?_, ?_, hout⟩
  · rw [hres, hlen]
    exact w32_toNat _
  · rw [hres, ← w32_toNat t.res.outLen, ht.outLen, houtLen]
    rfl

end Sys2Proof.Machine
end

section
namespace Sys2Proof.Machine

/-! ### How DFRAME ends (43_frame.md rule R163; 60_exceptions.md rules R201, R205) -/

/-- The errors of DFRAME's rows of R201, by the state of the reader in which they can arise. -/
def Fsm.readerErrors : Fsm → List ErrCode
  | .header => [.unexpectedEndOfInput, .invalidMagicNumber, .headerChecksumMismatch, .formatViolation]
  | .blocks =>
    [.unexpectedEndOfInput, .formatViolation, .blockChecksumMismatch, .insufficientOutputSpace, .malformedSequence]
  | .endMark => [.unexpectedEndOfInput, .contentChecksumMismatch, .outputSizeMismatch]
  | .none | .finished | .failed => []

/-- The result registers that are not DFRAME's are 0 (R15). -/
def Results.OfReader (r : Results) : Prop :=
  r.boundLo = 0#32 ∧ r.boundHi = 0#32 ∧ r.matchOff = 0#32 ∧ r.matchLen = 0#32

theorem Results.OfReader.eq {r : Results} (h : r.OfReader) : r = {
    outLen := r.outLen, inPos := r.inPos, desc := r.desc, csizeLo := r.csizeLo, csizeHi := r.csizeHi
    dictId := r.dictId, blockIdx := r.blockIdx, cksum := r.cksum } := by
  obtain ⟨hlo, hhi, hoff, hlen⟩ := h
  cases r
  cases hlo
  cases hhi
  cases hoff
  cases hlen
  rfl

/-- DFRAME, started in `s`, has ended in `t`: Done and Finished, or in an error of the reader's state, and within its
bounds. -/
structure ReaderEnd (s t : State) : Prop where
  outcome : (t.status = { state := .done, fsm := .finished, lastCmd := 0x05#8 } ∧ t.err = .none)
    ∨ ∃ f : Fsm, t.status = { state := .error, fsm := .failed, fsmAt := f, lastCmd := 0x05#8 } ∧ t.err ∈ f.readerErrors
      ∧ (f = .header → t.res.outLen = 0#32)
  res : t.res.OfReader
  outLen_le : t.res.outLen.toNat ≤ s.opr.outCap.toNat
  inPos_le : t.res.inPos.toNat ≤ s.opr.inLen.toNat
  ht : t.ht = s.ht
  kept : Kept s t
  unwritten : Unwritten 0 t.res.outLen.toNat s t

theorem ReaderEnd.not_busy {s t : State} (h : ReaderEnd s t) : t.busy = false := by
  rcases h.outcome with ⟨hst, -⟩ | ⟨f, hst, -⟩ <;> rw [State.busy, hst] <;> rfl

/-- What holds of DFRAME, started in `s`, wherever it has got to in the state `f` of the reader: in the header there is
no output yet. -/
structure ReadsIn (f : Fsm) (s u : State) : Prop where
  same : SameReader (s.startCmd .dframe) u
  status : u.status = { state := .busy, fsm := f, lastCmd := 0x05#8 }
  res : u.res.OfReader
  ip_le : u.int.ip.toNat ≤ u.opr.inLen.toNat
  op_le : u.int.op.toNat ≤ u.opr.outCap.toNat
  header : f = .header → u.int.op = 0#32
  outside : SameOutBut 0 u.int.op.toNat s u

section Ends
variable {f : Fsm} {s u t : State} {e : ErrCode} {st : Status} (h : ReadsIn f s u)
include h

theorem ReadsIn.opr : u.opr = s.opr := h.same.opr

/-- The end of DFRAME at its cursors is within its bounds, whatever its outcome. -/
theorem ReadsIn.readerEnd (hend : Ended st e u.res 0 u.int.op.toNat u.int.ip.toNat s t)
    (hout : (st = { state := .done, fsm := .finished, lastCmd := 0x05#8 } ∧ e = .none)
      ∨ st = { state := .error, fsm := .failed, fsmAt := f, lastCmd := 0x05#8 } ∧ e ∈ f.readerErrors) :
    ReaderEnd s t := by
  obtain ⟨hst, herr, hres, hht, hkept, hun⟩ := hend
  have hlen : t.res.outLen = u.int.op := (congrArg Results.outLen hres).trans (w32_toNat _)
  have hpos : t.res.inPos = u.int.ip := (congrArg Results.inPos hres).trans (w32_toNat _)
  refine ⟨?_, ?_, ?_, ?_, hht, hkept, hlen ▸ hun⟩
  · rw [hst, herr, hlen]
    exact hout.imp id fun ⟨hs, he⟩ => ⟨f, hs, he, h.header⟩
  · rw [hres]
    exact h.res
  · rw [hlen, ← h.opr]
    exact h.op_le
  · rw [hpos, ← h.opr]
    exact h.ip_le

/-- The reader raises an error of its state (R205). -/
theorem ReadsIn.raised (he : e ∈ f.readerErrors) : ReaderEnd s (u.raiseAtCursors e) := by
  have hend := h.same.raised rfl (w32_toNat _).symm (Nat.zero_le _) h.outside e
  rw [h.status] at hend
  exact h.readerEnd hend.of_startCmd (.inr ⟨rfl, he⟩)

/-- The frame has ended (R177). -/
theorem ReadsIn.finished :
    ReaderEnd s ({ u with status := { u.status with fsm := .finished } }.finish u.int.op u.int.ip) := by
  have hend := SameReader.finished (u := { u with status := { u.status with fsm := .finished } }) (h.same.trans rfl) rfl
    (w32_toNat _).symm (Nat.zero_le _) h.outside
  refine h.readerEnd hend.of_startCmd (.inl ⟨?_, h.same.err⟩)
  dsimp only
  rw [h.status]

/-- Where the input ends before an element of a frame, DFRAME ends (R162, `need`). -/
theorem ReadsIn.short {site : Site} (he : ErrCode.unexpectedEndOfInput ∈ f.readerErrors) (htok : site ≠ .token)
    (hshort : ¬ u.int.fetchAt site + siteNeed site ≤ u.opr.inLen.toNat) : ReaderEnd s (readElement site u) := by
  rw [readElement_of_short htok (Nat.lt_of_not_le hshort)]
  exact h.raised he

end Ends

/-- Step E3: DFRAME ends, Done or by a wrong content size. -/
theorem ReadsIn.closesFrame {s u : State} (h : ReadsIn .endMark s u) : ReaderEnd s (closeFrame u) := by
  by_cases hsize : u.int.csz = false ∨ u.contentSize = u.int.op.toNat
  · rw [closeFrame_of_right hsize]
    exact h.finished
  · obtain ⟨hcsz, hne⟩ := not_or.1 hsize
    rw [closeFrame_of_wrong (Bool.eq_true_of_not_eq_false hcsz) hne]
    exact h.raised (by decide)

/-! ### DFRAME between two of its steps -/

/-- The state of the reader at a point of its pseudocode (R163). -/
def Point.readerFsm : Point → Fsm
  | .magic | .flg | .bd | .hc | .csize | .dictid => .header
  | .block | .bck | .tokens => .blocks
  | .cck => .endMark
  | .idle | .entry _ | .scan | .nextBlock | .trailer => .none

/-- A number that falls along a path through the reader's pseudocode on which `ip` stays where it is. -/
def Point.rank : Point → Nat
  | .magic => 8
  | .flg => 7
  | .bd => 6
  | .hc => 5
  | .csize => 4
  | .dictid | .bck => 3
  | .block | .tokens => 2
  | .cck => 1
  | .idle | .entry _ | .scan | .nextBlock | .trailer => 0

/-- A bound on the steps that DFRAME still takes from a point: each uses up input or lowers the rank (R210). -/
def State.stepsFrom (p : Point) (u : State) : Nat := u.opr.inLen.toNat - u.int.ip.toNat + p.rank

def State.stepsLeft (u : State) : Nat := u.stepsFrom u.int.point

/-- DFRAME, started in `s`, stands before one of its elements; a token stream is decoded in bounded mode (R142,
R173). -/
structure BetweenSteps (s u : State) : Prop where
  reads : ReadsIn u.int.point.readerFsm s u
  reader : ∃ site, u.int.point.site = some site
  bounded : u.int.point = .tokens → u.int.limBuf = some u.opr.outCap ∧ u.int.exactMode = false

/-- A step of DFRAME has ended it, or has left fewer than `n` steps. -/
def EndsOrGoesOn (s : State) (n : Nat) (v : State) : Prop := ReaderEnd s v ∨ (BetweenSteps s v ∧ v.stepsLeft < n)

theorem EndsOrGoesOn.mono {s v : State} {m n : Nat} (h : EndsOrGoesOn s m v) (hle : m ≤ n) : EndsOrGoesOn s n v :=
  h.imp id fun ⟨hb, hlt⟩ => ⟨hb, hlt.trans_le hle⟩

section Moves
variable {f : Fsm} {s u v : State} (h : ReadsIn f s u)
include h

/-- The reader has written output behind what it had. -/
theorem ReadsIn.written (hsame : SameReader u v) (hst : v.status = u.status) (hres : v.res = u.res)
    (hip : v.int.ip.toNat ≤ u.opr.inLen.toNat) (hle : u.int.op.toNat ≤ v.int.op.toNat)
    (hcap : v.int.op.toNat ≤ u.opr.outCap.toNat) (hout : SameOutBut u.int.op.toNat v.int.op.toNat u v)
    (hf : f ≠ .header) : ReadsIn f s v where
  same := h.same.trans hsame
  status := hst.trans h.status
  res := hres ▸ h.res
  ip_le := hsame.opr ▸ hip
  op_le := hsame.opr ▸ hcap
  header := fun hf' => absurd hf' hf
  outside := (h.outside.mono (Nat.le_refl _) hle).trans (hout.mono (Nat.zero_le _) (Nat.le_refl _))

/-- The reader has moved in the input, and written registers only. -/
theorem ReadsIn.moved (hv : v = { u with res := v.res, int := v.int }) (hres : v.res.OfReader)
    (hop : v.int.op = u.int.op) (hip : v.int.ip.toNat ≤ u.opr.inLen.toNat) : ReadsIn f s v where
  same := h.same.trans (by rw [SameReader, hv])
  status := (congrArg (fun w => w.status) hv).trans h.status
  res := hres
  ip_le := (congrArg (fun w => w.opr) hv).symm ▸ hip
  op_le := (congrArg (fun w => w.opr) hv).symm ▸ hop.symm ▸ h.op_le
  header := fun hf => hop.trans (h.header hf)
  outside := fun a ha => (congrArg (fun w => w.outb.read a) hv).trans (h.outside a (hop ▸ ha))

/-- The reader enters its next state (R163). -/
theorem ReadsIn.enters {g : Fsm} (hg : g ≠ .header) : ReadsIn g s { u with status := { u.status with fsm := g } } where
  same := h.same.trans rfl
  status := by dsimp only; rw [h.status]
  res := h.res
  ip_le := h.ip_le
  op_le := h.op_le
  header := fun hg' => absurd hg' hg
  outside := h.outside

end Moves

end Sys2Proof.Machine
end

section
namespace Sys2Proof.Machine

/-! ### DFRAME's elements, on every input (43_frame.md rules R162 to R177) -/

/-- Bytes enough for a field of the frame are read for what they are (R77 to R83). -/
theorem decode_field {site : Site} {bs : List Byte} (hs : site ∈ [.csize, .dictid, .block, .bck, .cck])
    (hlen : siteNeed site ≤ bs.length) : ∃ i, decode site bs = .ok i := by
  have htake : takeLe (siteNeed site) bs = .ok (leNat (bs.take (siteNeed site))) := if_neg (Nat.not_lt.2 hlen)
  simp only [List.mem_cons, List.not_mem_nil, or_false] at hs
  rcases hs with rfl | rfl | rfl | rfl | rfl <;> exact ⟨_, congrArg (Except.map _) htake⟩

/-- Where all the bytes of a field are there, the reader takes it. -/
theorem readElement_of_present {u : State} {site : Site} (hs : site ∈ [.csize, .dictid, .block, .bck, .cck])
    (hfit : u.int.fetchAt site + siteNeed site ≤ u.opr.inLen.toNat) :
    ∃ i : Instr, i.site = site ∧ readElement site u = elementState i u := by
  have htok : site ≠ .token := by rintro rfl; exact absurd hs (by decide)
  obtain ⟨i, hd⟩ := decode_field hs (u.inBytes_length (u.int.fetchAt site) _).ge
  rw [readElement, fetchBytes_of_present htok hfit, hd]
  exact ⟨i, decode_site hd, rfl⟩

section Header
variable {s u : State} (h : ReadsIn .header s u)
include h

theorem ReadsIn.readsMagic : EndsOrGoesOn s (u.stepsFrom .magic) (readElement .magic u) := by
  by_cases hfit : u.int.ip.toNat + 4 ≤ u.opr.inLen.toNat
  · rw [readElement_magic hfit]
    split_ifs
    · have hip : (magicState u).int.ip.toNat = u.int.ip.toNat + 4 := ip_add_toNat hfit
      refine .inr ⟨⟨h.moved (v := magicState u) rfl h.res rfl (hip ▸ hfit), ⟨_, rfl⟩, nofun⟩, ?_⟩
      show u.opr.inLen.toNat - (magicState u).int.ip.toNat + 7 < u.opr.inLen.toNat - u.int.ip.toNat + 8
      omega
    · exact .inl (h.raised (by decide))
  · exact .inl (h.short (by decide) nofun hfit)

theorem ReadsIn.readsFlg : EndsOrGoesOn s (u.stepsFrom .flg) (readElement .flg u) := by
  by_cases hfit : u.int.ip.toNat + 3 ≤ u.opr.inLen.toNat
  · rw [readElement_flg hfit]
    exact .inr ⟨⟨h.moved (v := flgState _ u) rfl h.res rfl h.ip_le, ⟨_, rfl⟩, nofun⟩, Nat.lt_succ_self _⟩
  · exact .inl (h.short (by decide) nofun hfit)

theorem ReadsIn.readsBd (hfit : u.int.ip.toNat + 3 ≤ u.opr.inLen.toNat) :
    EndsOrGoesOn s (u.stepsFrom .bd) (readElement .bd u) := by
  rw [readElement_bd (by omega)]
  have latched : ReadsIn .header s { u with int := { u.int with bd := u.inByte (u.int.ip.toNat + 1), point := .hc } } :=
    h.moved rfl h.res rfl h.ip_le
  by_cases hroom : u.int.ip.toNat + descLen u.int.flg + 1 ≤ u.opr.inLen.toNat
  · rw [bdState_of_room hroom]
    exact .inr ⟨⟨latched, ⟨_, rfl⟩, nofun⟩, Nat.lt_succ_self _⟩
  · rw [bdState_of_short h.ip_le (Nat.lt_of_not_le hroom)]
    exact .inl (latched.raised (by decide))

variable (hfit : u.int.ip.toNat + descLen u.int.flg + 1 ≤ u.opr.inLen.toNat)
include hfit

/-- The blocks follow the header (step H4). -/
theorem ReadsIn.opensBlocks : EndsOrGoesOn s (u.stepsFrom .dictid) (openBlocks u) := by
  rw [openBlocks_eq]
  have hip : (w32 (u.int.ip.toNat + descLen u.int.flg + 1)).toNat = u.int.ip.toNat + descLen u.int.flg + 1 :=
    ip_add_toNat (n := descLen u.int.flg + 1) hfit
  refine .inr ⟨⟨(h.enters (g := .blocks) nofun).moved rfl h.res rfl (hip.le.trans hfit), ⟨_, rfl⟩, nofun⟩, ?_⟩
  show u.opr.inLen.toNat - (w32 (u.int.ip.toNat + descLen u.int.flg + 1)).toNat + 2
    < u.opr.inLen.toNat - u.int.ip.toNat + 3
  omega

theorem ReadsIn.afterCsize : EndsOrGoesOn s (u.stepsFrom .csize) (afterCsize u) := by
  cases hdid : u.int.did with
  | true =>
    rw [afterCsize_of_did hdid]
    exact .inr ⟨⟨h.moved rfl h.res rfl h.ip_le, ⟨_, rfl⟩, nofun⟩, Nat.lt_succ_self _⟩
  | false =>
    rw [afterCsize_of_no_did hdid]
    exact (h.opensBlocks hfit).mono (Nat.le_succ _)

theorem ReadsIn.afterHc : EndsOrGoesOn s (u.stepsFrom .hc) (afterHc u) := by
  cases hcsz : u.int.csz with
  | true =>
    rw [afterHc_of_csz hcsz]
    exact .inr ⟨⟨h.moved rfl h.res rfl h.ip_le, ⟨_, rfl⟩, nofun⟩, Nat.lt_succ_self _⟩
  | false =>
    rw [afterHc_of_no_csz hcsz]
    exact (h.afterCsize hfit).mono (Nat.le_succ _)

theorem ReadsIn.readsHc : EndsOrGoesOn s (u.stepsFrom .hc) (readElement .hc u) := by
  rw [readElement_hc hfit]
  set hc := u.inByte (u.int.ip.toNat + descLen u.int.flg)
  have recorded : ReadsIn .header s (u.withDesc hc) := h.moved rfl h.res rfl h.ip_le
  by_cases hright : hc = headerByte u.cfg (u.inBytes u.int.ip.toNat (descLen u.int.flg))
  · cases hill : descIllegal u.int.flg u.int.bd with
    | true =>
      rw [hcState_of_illegal hright hill]
      exact .inl (recorded.raised (by decide))
    | false =>
      rw [hcState_of_legal hright hill]
      have latched : ReadsIn .header s (latchFlags (u.withDesc hc)) := recorded.moved rfl h.res rfl h.ip_le
      exact latched.afterHc hfit
  · rw [hcState_of_wrong hright]
    exact .inl (recorded.raised (by decide))

theorem ReadsIn.readsCsize : EndsOrGoesOn s (u.stepsFrom .csize) (readElement .csize u) := by
  by_cases hread : u.int.fetchAt .csize + siteNeed .csize ≤ u.opr.inLen.toNat
  · obtain ⟨i, hi, he⟩ := readElement_of_present (by decide) hread
    cases i with
    | csize v =>
      have recorded : ReadsIn .header s (u.withCsize v) := h.moved rfl h.res rfl h.ip_le
      exact he ▸ recorded.afterCsize hfit
    | _ => cases hi
  · exact .inl (h.short (by decide) nofun hread)

theorem ReadsIn.readsDictid : EndsOrGoesOn s (u.stepsFrom .dictid) (readElement .dictid u) := by
  by_cases hread : u.int.fetchAt .dictid + siteNeed .dictid ≤ u.opr.inLen.toNat
  · obtain ⟨i, hi, he⟩ := readElement_of_present (by decide) hread
    cases i with
    | dictid v =>
      have recorded : ReadsIn .header s { u with res := { u.res with dictId := v } } := h.moved rfl h.res rfl h.ip_le
      exact he ▸ recorded.opensBlocks hfit
    | _ => cases hi
  · exact .inl (h.short (by decide) nofun hread)

end Header

section Blocks
variable {s u : State} (h : ReadsIn .blocks s u)
include h

/-- A data block is closed (step B5). -/
theorem ReadsIn.closesBlock (hfit : u.int.ip.toNat + 4 * u.int.bck.toNat ≤ u.opr.inLen.toNat) :
    EndsOrGoesOn s (u.stepsFrom .bck) (closeBlock u) := by
  have hip : (closeBlock u).int.ip.toNat = u.int.ip.toNat + 4 * u.int.bck.toNat := ip_add_toNat hfit
  refine .inr ⟨⟨h.moved (v := closeBlock u) rfl h.res rfl (hip ▸ hfit), ⟨_, rfl⟩, nofun⟩, ?_⟩
  show u.opr.inLen.toNat - (closeBlock u).int.ip.toNat + 2 < u.opr.inLen.toNat - u.int.ip.toNat + 3
  omega

/-- A payload that is there is copied, or its decoder set up, or there is no room for it (step B4). -/
theorem ReadsIn.startsPayload
    (hfit : u.int.ip.toNat + u.int.blkSize.toNat + 4 * u.int.bck.toNat ≤ u.opr.inLen.toNat) :
    EndsOrGoesOn s (u.stepsFrom .bck) (startPayload u) := by
  have hmark : ReadsIn .blocks s u.markStart := h.moved rfl h.res rfl h.ip_le
  cases hstored : u.int.blkStored with
  | false =>
    rw [startPayload_of_compressed hstored]
    exact .inr ⟨⟨hmark.moved (v := tokenPayload u.markStart) rfl h.res rfl h.ip_le, ⟨_, rfl⟩, fun _ => ⟨rfl, rfl⟩⟩,
      Nat.lt_succ_self _⟩
  | true =>
    by_cases hroom : u.int.op.toNat + u.int.blkSize.toNat ≤ u.opr.outCap.toNat
    · rw [startPayload_copies hstored hroom]
      have hip : u.markStart.copyPayload.int.ip.toNat = u.int.ip.toNat + u.int.blkSize.toNat :=
        ip_add_toNat (s := u) (n := u.int.blkSize.toNat) (by omega)
      have hop : u.markStart.copyPayload.int.op.toNat = u.int.op.toNat + u.int.blkSize.toNat :=
        toNat_w32 (hroom.trans_lt u.opr.outCap.isLt)
      have copied : ReadsIn .blocks s u.markStart.copyPayload := by
        refine h.written rfl rfl rfl (by omega) (by omega) (by omega) (fun a ha => ?_) nofun
        refine Memory.read_writeBytes_outside _ ?_
        rw [State.inBytes_length]
        exact hop ▸ ha
      refine (copied.closesBlock ?_).mono ?_
      · show u.markStart.copyPayload.int.ip.toNat + 4 * u.int.bck.toNat ≤ u.opr.inLen.toNat
        omega
      · show u.opr.inLen.toNat - u.markStart.copyPayload.int.ip.toNat + 3 ≤ u.opr.inLen.toNat - u.int.ip.toNat + 3
        omega
    · rw [startPayload_of_no_room hstored (Nat.lt_of_not_le hroom)]
      exact .inl (hmark.raised (by decide))

/-- A block size word read (steps B1, B2). -/
theorem ReadsIn.takesSize (stored : Bool) (size : BitVec 31) (hip : u.int.ip.toNat + 4 ≤ u.opr.inLen.toNat) :
    EndsOrGoesOn s (u.stepsFrom .block) (bsizeState stored size u) := by
  have hat : (u.takeSize stored size).int.ip.toNat = u.int.ip.toNat + 4 := ip_add_toNat hip
  have taken : ReadsIn .blocks s (u.takeSize stored size) := h.moved rfl h.res rfl (hat ▸ hip)
  by_cases hmax : size.toNat ≤ u.int.bmax.toNat
  · by_cases hfit : u.int.ip.toNat + 4 + size.toNat + 4 * u.int.bck.toNat ≤ u.opr.inLen.toNat
    · cases hbck : u.int.bck with
      | true =>
        rw [bsizeState_of_bck hip hmax hfit hbck]
        refine .inr ⟨⟨taken.moved rfl h.res rfl taken.ip_le, ⟨_, rfl⟩, nofun⟩, ?_⟩
        show u.opr.inLen.toNat - (u.takeSize stored size).int.ip.toNat + 3 < u.opr.inLen.toNat - u.int.ip.toNat + 2
        omega
      | false =>
        rw [bsizeState_of_no_bck hip hmax hfit hbck]
        refine (taken.startsPayload ?_).mono ?_
        · show (u.takeSize stored size).int.ip.toNat + size.toNat + 4 * u.int.bck.toNat ≤ u.opr.inLen.toNat
          omega
        · show u.opr.inLen.toNat - (u.takeSize stored size).int.ip.toNat + 3 ≤ u.opr.inLen.toNat - u.int.ip.toNat + 2
          omega
    · rw [bsizeState_of_short hip hmax (Nat.lt_of_not_le hfit)]
      exact .inl (taken.raised (by decide))
  · rw [bsizeState_of_large (Nat.lt_of_not_le hmax)]
    exact .inl (taken.raised (by decide))

/-- The EndMark read (step E1). -/
theorem ReadsIn.takesEndmark (hip : u.int.ip.toNat + 4 ≤ u.opr.inLen.toNat) :
    EndsOrGoesOn s (u.stepsFrom .block) (endmarkState u) := by
  have hat : u.takeEndmark.int.ip.toNat = u.int.ip.toNat + 4 := ip_add_toNat hip
  have taken : ReadsIn .endMark s u.takeEndmark := (h.enters (g := .endMark) nofun).moved rfl h.res rfl (hat ▸ hip)
  cases hcck : u.int.cck with
  | true =>
    rw [endmarkState_of_cck hcck]
    refine .inr ⟨⟨taken.moved rfl h.res rfl taken.ip_le, ⟨_, rfl⟩, nofun⟩, ?_⟩
    show u.opr.inLen.toNat - u.takeEndmark.int.ip.toNat + 1 < u.opr.inLen.toNat - u.int.ip.toNat + 2
    omega
  | false =>
    rw [endmarkState_of_no_cck hcck]
    exact .inl taken.closesFrame

theorem ReadsIn.readsBlock : EndsOrGoesOn s (u.stepsFrom .block) (readElement .block u) := by
  by_cases hread : u.int.fetchAt .block + siteNeed .block ≤ u.opr.inLen.toNat
  · obtain ⟨i, hi, he⟩ := readElement_of_present (by decide) hread
    rw [he]
    cases i with
    | bsize stored size => exact h.takesSize stored size hread
    | endmark => exact h.takesEndmark hread
    | _ => cases hi
  · exact .inl (h.short (by decide) nofun hread)

theorem ReadsIn.readsBck (hfit : u.int.ip.toNat + u.int.blkSize.toNat + 4 * u.int.bck.toNat ≤ u.opr.inLen.toNat) :
    EndsOrGoesOn s (u.stepsFrom .bck) (readElement .bck u) := by
  by_cases hread : u.int.fetchAt .bck + siteNeed .bck ≤ u.opr.inLen.toNat
  · obtain ⟨i, hi, he⟩ := readElement_of_present (by decide) hread
    rw [he]
    cases i with
    | bck k =>
      show EndsOrGoesOn s (u.stepsFrom .bck) (bckState k u)
      by_cases hright : k = ck32 u.cfg (u.inBytes u.int.ip.toNat u.int.blkSize.toNat)
      · rw [bckState_of_right hright]
        exact h.startsPayload hfit
      · rw [bckState_of_wrong hright]
        exact .inl (h.raised (by decide))
    | _ => cases hi
  · exact .inl (h.short (by decide) nofun hread)

end Blocks

theorem ReadsIn.readsCck {s u : State} (h : ReadsIn .endMark s u) : ReaderEnd s (readElement .cck u) := by
  by_cases hread : u.int.fetchAt .cck + siteNeed .cck ≤ u.opr.inLen.toNat
  · obtain ⟨i, hi, he⟩ := readElement_of_present (by decide) hread
    rw [he]
    cases i with
    | cck k =>
      show ReaderEnd s (cckState k u)
      have reported : ReadsIn .endMark s u.withCksum := h.moved rfl h.res rfl h.ip_le
      by_cases hright : k = ck32 u.cfg u.int.cc
      · rw [cckState_of_right hright]
        exact (reported.moved (v := u.withCksum.skip 4) rfl h.res rfl ((toNat_w32_le _).trans hread)).closesFrame
      · rw [cckState_of_wrong hright]
        exact reported.raised (by decide)
    | _ => cases hi
  · exact h.short (by decide) nofun hread

end Sys2Proof.Machine
end

section
namespace Sys2Proof.Machine

/-! ### DFRAME in a token stream (42_block_decoder.md rules R142, R143, R147) -/

/-- Output that passes no limit is within the buffer (R142). -/
theorem le_of_over_eq_none {i : Internal} {n : Nat} {b : Word} (hbuf : i.limBuf = some b) (h : i.over n = none) :
    n ≤ b.toNat := by
  rcases i.over_cases n with ⟨-, -, hle⟩ | ⟨he, -⟩ | ⟨he, -⟩
  · exact hle b hbuf
  · cases h.symm.trans he
  · cases h.symm.trans he

/-- The errors of a token stream are among those of the blocks. -/
theorem tokenError_mem {i : Internal} {e : ErrCode}
    (h : e = .malformedSequence ∨ e = .unexpectedEndOfInput ∨ ∃ k, i.over k = some e) :
    e ∈ Fsm.blocks.readerErrors := by
  rcases h with rfl | rfl | ⟨k, hk⟩
  · decide
  · decide
  · rcases i.over_cases k with ⟨he, -⟩ | ⟨he, -⟩ | ⟨he, -⟩ <;> cases hk.symm.trans he <;> decide

theorem size_pos (i : Instr) : 0 < i.size := by
  cases i <;> simp only [Instr.size] <;> omega

theorem seqDone_outside (lit : List Byte) (off : BitVec 16) (mlen : Nat) {u : State}
    (hlt : u.int.op.toNat + lit.length < 2 ^ 32) :
    SameOutBut u.int.op.toNat (u.int.op.toNat + lit.length + mlen) u (seqDone lit off mlen u) := fun a ha => by
  rw [seqDone_outb, toNat_w32 hlt, copyBack_read_outside _ _ _ _ _ (by omega),
    Memory.read_writeBytes_outside _ (by omega)]

section Tokens
variable {s u v : State} {lit : List Byte} {n : Nat} (h : ReadsIn .blocks s u)
include h

/-- The decoder has copied literals that fit. -/
theorem ReadsIn.copied (hc : Copied lit n u v) (hroom : u.int.op.toNat + lit.length ≤ u.opr.outCap.toNat)
    (hip : u.int.ip.toNat + n ≤ u.opr.inLen.toNat) : ReadsIn .blocks s v := by
  have hop := hc.op_toNat (hroom.trans_lt u.opr.outCap.isLt)
  refine h.written hc.same.sameReader (congrArg (fun w => w.status) hc.same) (congrArg (fun w => w.res) hc.same) ?_
    (by omega) (hop ▸ hroom) (hop ▸ hc.outside) nofun
  rw [hc.ip]
  exact (toNat_w32_le _).trans hip

/-- An error of the token stream. -/
theorem ReadsIn.stopsInTokens {e : ErrCode} (hbuf : u.int.limBuf = some u.opr.outCap)
    (hsound : (TokenOutcome.stop e lit n).Sound u.int (u.fetchBytes .token))
    (hleaves : (TokenOutcome.stop e lit n).Leaves u v)
    (hfit : u.int.ip.toNat + (u.fetchBytes .token).length ≤ u.opr.inLen.toNat) : ReaderEnd s v := by
  obtain ⟨hn, hlits, he⟩ := hsound
  obtain ⟨w, hw, rfl⟩ := hleaves
  have hroom : u.int.op.toNat + lit.length ≤ u.opr.outCap.toNat := by
    rcases hlits with rfl | hover
    · exact h.op_le
    · exact le_of_over_eq_none hbuf hover
  exact (h.copied hw hroom (by omega)).raised (tokenError_mem he)

variable (hbuf : u.int.limBuf = some u.opr.outCap) (hmode : u.int.exactMode = false)
include hbuf hmode

/-- A LAST closes its block. -/
theorem ReadsIn.decodesLast {mc : BitVec 4} (hsound : (TokenOutcome.last lit mc).Sound u.int (u.fetchBytes .token))
    (hfit : u.int.ip.toNat + (u.fetchBytes .token).length + 4 * u.int.bck.toNat ≤ u.opr.inLen.toNat) :
    EndsOrGoesOn s (u.stepsFrom .tokens) (terminalState (lastDone lit mc u)) := by
  obtain ⟨hbytes, hlits⟩ := hsound
  have hsize : (u.fetchBytes .token).length = (Instr.last lit mc).size := by rw [hbytes, encode_length]
  have hpos := size_pos (.last lit mc)
  have hat : (lastDone lit mc u).int.ip.toNat = u.int.ip.toNat + (Instr.last lit mc).size :=
    (congrArg BitVec.toNat (copied_lastDone lit mc u).ip).trans (ip_add_toNat (by omega))
  have done := h.copied (copied_lastDone lit mc u) (le_of_over_eq_none hbuf hlits) (by omega)
  have hblock : terminalState (lastDone lit mc u) = closeBlock (lastDone lit mc u) := if_neg (ne_true_of_eq_false hmode)
  rw [hblock]
  refine (done.closesBlock ?_).mono ?_
  · show (lastDone lit mc u).int.ip.toNat + 4 * u.int.bck.toNat ≤ u.opr.inLen.toNat
    omega
  · show u.opr.inLen.toNat - (lastDone lit mc u).int.ip.toNat + 3 ≤ u.opr.inLen.toNat - u.int.ip.toNat + 2
    omega

variable (hp : u.int.point = .tokens)
include hp

/-- A SEQ leaves DFRAME in its token stream. -/
theorem ReadsIn.decodesSeq {off : BitVec 16} {mlen : Nat}
    (hsound : (TokenOutcome.seq lit off mlen).Sound u.int (u.fetchBytes .token))
    (hfit : u.int.ip.toNat + (u.fetchBytes .token).length ≤ u.opr.inLen.toNat) :
    EndsOrGoesOn s (u.stepsFrom .tokens) (seqDone lit off mlen u) := by
  obtain ⟨⟨rest, hbytes⟩, -, -, hlits, hmatch⟩ := hsound
  have hlt := (le_of_over_eq_none hbuf hlits).trans_lt u.opr.outCap.isLt
  rw [toNat_w32 hlt] at hmatch
  have hcap := le_of_over_eq_none hbuf hmatch
  obtain ⟨hip, hop⟩ := seqDone_cursors lit off mlen u
  have hsize : (Instr.seq lit off mlen).size ≤ (u.fetchBytes .token).length := by
    rw [hbytes, List.length_append, encode_length]
    exact Nat.le_add_right ..
  have hpos := size_pos (.seq lit off mlen)
  replace hip : (seqDone lit off mlen u).int.ip.toNat = u.int.ip.toNat + (Instr.seq lit off mlen).size :=
    (congrArg BitVec.toNat hip).trans (ip_add_toNat (by omega))
  replace hop : (seqDone lit off mlen u).int.op.toNat = u.int.op.toNat + lit.length + mlen :=
    (congrArg BitVec.toNat hop).trans (toNat_w32 (hcap.trans_lt u.opr.outCap.isLt))
  have done : ReadsIn .blocks s (seqDone lit off mlen u) :=
    h.written (seqDone_same lit off mlen u).sameReader rfl rfl (by omega) (by omega) (hop ▸ hcap)
      (hop ▸ seqDone_outside lit off mlen hlt) nofun
  have hpoint : (seqDone lit off mlen u).int.point = .tokens := hp
  refine .inr ⟨⟨hpoint ▸ done, ⟨.token, congrArg Point.site hpoint⟩, fun _ => ⟨hbuf, hmode⟩⟩, ?_⟩
  rw [State.stepsLeft, hpoint]
  show u.opr.inLen.toNat - (seqDone lit off mlen u).int.ip.toNat + 2 < u.opr.inLen.toNat - u.int.ip.toNat + 2
  omega

theorem ReadsIn.readsToken (hip : u.int.ip.toNat ≤ u.int.inEnd.toNat)
    (hend : u.int.inEnd.toNat + 4 * u.int.bck.toNat ≤ u.opr.inLen.toNat) :
    EndsOrGoesOn s (u.stepsFrom .tokens) (readElement .token u) := by
  have hlen : (u.fetchBytes .token).length = u.int.inEnd.toNat - u.int.ip.toNat := u.inBytes_length ..
  have hleaves := readElement_leaves u
  have hsound := u.int.tokenOutcome_sound (u.fetchBytes .token)
  cases ho : u.int.tokenOutcome (u.fetchBytes .token) <;> rw [ho] at hleaves hsound
  case seq lit off mlen =>
    have he : readElement .token u = seqDone lit off mlen u := hleaves
    exact he ▸ h.decodesSeq hbuf hmode hp hsound (by omega)
  case last lit mc =>
    have he : readElement .token u = terminalState (lastDone lit mc u) := hleaves
    exact he ▸ h.decodesLast hbuf hmode hsound (by omega)
  case stop e lit n => exact .inl (h.stopsInTokens hbuf hsound hleaves (by omega))

end Tokens

/-! ### A whole run of DFRAME (60_exceptions.md rules R201, R210) -/

/-- Every step of DFRAME ends it or brings its end nearer (R210). -/
theorem BetweenSteps.step {s u : State} (h : BetweenSteps s u) (hc : u.cursorsOk = true) :
    EndsOrGoesOn s u.stepsLeft (engineStep u) := by
  obtain ⟨reads, ⟨site, hsite⟩, bounded⟩ := h
  rw [engineStep_element hsite, State.stepsLeft]
  cases hp : u.int.point <;> rw [hp] at reads hsite bounded <;> cases hsite
  all_goals simp only [State.cursorsOk, hp, Bool.and_eq_true, decide_eq_true_eq] at hc
  case tokens =>
    obtain ⟨hbuf, hmode⟩ := bounded rfl
    rw [hmode] at hc
    exact reads.readsToken hbuf hmode hp hc.1 hc.2
  case magic => exact reads.readsMagic
  case flg => exact reads.readsFlg
  case bd => exact reads.readsBd hc
  case hc => exact reads.readsHc hc
  case csize => exact reads.readsCsize hc
  case dictid => exact reads.readsDictid hc
  case block => exact reads.readsBlock
  case bck =>
    obtain ⟨hfit, hbck⟩ := hc
    exact reads.readsBck (by rw [hbck]; exact hfit)
  case cck => exact .inl reads.readsCck

/-- DFRAME ends within as many steps as are left. -/
theorem BetweenSteps.ends {s u : State} {k : Nat} (h : BetweenSteps s u) (hc : u.cursorsOk = true)
    (hk : u.stepsLeft < k) : ReaderEnd s (runEngine k u) := by
  induction k generalizing u with
  | zero => exact absurd hk (Nat.not_lt_zero _)
  | succ k ih =>
    have hbusy : u.busy = true := by rw [State.busy, h.reads.status]; rfl
    obtain ⟨site, hsite⟩ := h.reader
    rw [runEngine_succ, if_pos hbusy]
    rcases h.step hc with hend | ⟨hnext, hlt⟩
    · rwa [runEngine_of_not_busy k hend.not_busy]
    · refine ih hnext ?_ (by omega)
      rw [engineStep_element hsite]
      exact readElement_cursorsOk hc hsite

theorem betweenSteps_atMagic (s : State) : BetweenSteps s s.atMagic where
  reads := ⟨rfl, rfl, ⟨rfl, rfl, rfl, rfl⟩, Nat.zero_le _, Nat.zero_le _, fun _ => rfl, fun _ _ => rfl⟩
  reader := ⟨_, rfl⟩
  bounded := nofun

/-- DFRAME ends on every input, within its fuel. -/
theorem runCommand_dframe_ends {s : State} (hb : s.busy = false) : ReaderEnd s (runCommand .dframe s) := by
  have hfuel : (s.startCmd .dframe).fuel = 3 * s.opr.inLen.toNat + 15 + 1 := rfl
  have henter : engineStep (s.startCmd .dframe) = s.atMagic := rfl
  have hleft : s.atMagic.stepsLeft = s.opr.inLen.toNat + 8 := rfl
  have hcursors : s.atMagic.cursorsOk = true := enter_cursorsOk .dframe (s.startCmd .dframe)
  rw [runCommand, hb, if_neg Bool.false_ne_true, State.runToEnd, hfuel, runEngine_succ, henter]
  exact (betweenSteps_atMagic s).ends hcursors (by omega)

/-- Settles O33: each step of the reader ends DFRAME in an error of its state or brings its end nearer. -/
theorem dframeIsSafe : Obligations.DframeIsSafe := by
  intro s hb
  obtain ⟨hout, hres, hlen, hpos, hht, hkept, hun⟩ := runCommand_dframe_ends hb
  refine ⟨_, rfl, hout.imp id ?_, hres.eq, hlen, hpos, hht, hkept, hun⟩
  rintro ⟨f, hst, he, hheader⟩
  have hat : (runCommand .dframe s).status.fsmAt = f := congrArg Status.fsmAt hst
  rw [hat]
  refine ⟨hst, ?_⟩
  cases f
  case header => exact .inl ⟨rfl, hheader rfl, he⟩
  case blocks => exact .inr (.inl ⟨rfl, he⟩)
  case endMark => exact .inr (.inr ⟨rfl, he⟩)
  all_goals cases he

end Sys2Proof.Machine
end

section
namespace Sys2Proof.Machine

/-! ### Every command ends (60_exceptions.md rule R210) -/

/-- The command `c` has ended in `t`: Done without an error, or Error with one. -/
def CommandEnd (c : Cmd) (t : State) : Prop :=
  t.busy = false ∧ t.status.lastCmd = c.opcode
    ∧ (t.status.state = .done ∧ t.err = .none ∨ t.status.state = .error ∧ t.err ≠ .none)

section Ends
variable {c : Cmd} {s t : State} {st : Status} {e : ErrCode}

theorem commandEnd_of_done (hst : t.status = st) (hdone : st.state = .done) (hcmd : st.lastCmd = c.opcode)
    (herr : t.err = .none) : CommandEnd c t := by
  subst hst
  exact ⟨by rw [State.busy, hdone]; rfl, hcmd, .inl ⟨hdone, herr⟩⟩

theorem commandEnd_of_error (hst : t.status = st) (herror : st.state = .error) (hcmd : st.lastCmd = c.opcode)
    (herr : t.err ≠ .none) : CommandEnd c t := by
  subst hst
  exact ⟨by rw [State.busy, herror]; rfl, hcmd, .inr ⟨herror, herr⟩⟩

theorem FailedUntouched.commandEnd (h : FailedUntouched st e s t) (herror : st.state = .error)
    (hcmd : st.lastCmd = c.opcode) (he : e ≠ .none) : CommandEnd c t := by
  obtain ⟨hst, herr, -⟩ := h
  exact commandEnd_of_error hst herror hcmd (herr ▸ he)

end Ends

theorem readerErrors_ne_none {f : Fsm} {e : ErrCode} (h : e ∈ f.readerErrors) : e ≠ .none :=
  ne_of_mem_of_not_mem h (by cases f <;> decide)

section Commands
variable {s : State} (hb : s.busy = false)
include hb

theorem commandEnd_cbound : ∃ t, exec .cbound s = .next t ∧ CommandEnd .cbound t := by
  obtain ⟨t, hrun, -, -, hst, herr, -⟩ := cboundGivesBound s hb
  exact ⟨t, hrun, commandEnd_of_done hst rfl rfl herr⟩

theorem commandEnd_mfclr : ∃ t, exec .mfclr s = .next t ∧ CommandEnd .mfclr t := by
  obtain ⟨t, hrun, -, hst, herr, -⟩ := mfclrClearsTable s hb
  exact ⟨t, hrun, commandEnd_of_done hst rfl rfl herr⟩

theorem commandEnd_mfins : ∃ t, exec .mfins s = .next t ∧ CommandEnd .mfins t := by
  obtain ⟨hfits, hshort⟩ := mfinsInsertsPosition s hb
  rcases Nat.lt_or_ge s.opr.inLen.toNat (s.opr.pos.toNat + 4) with hlt | hle
  · obtain ⟨t, hrun, hfail⟩ := hshort hlt
    exact ⟨t, hrun, hfail.commandEnd rfl rfl nofun⟩
  · obtain ⟨t, hrun, -, hst, herr, -⟩ := hfits hle
    exact ⟨t, hrun, commandEnd_of_done hst rfl rfl herr⟩

theorem commandEnd_mffind : ∃ t, exec .mffind s = .next t ∧ CommandEnd .mffind t := by
  obtain ⟨hlegal, hillegal⟩ := mffindLooksUpThenInserts s hb
  by_cases hbad : s.opr.limit.toNat < s.opr.pos.toNat + 4 ∨ s.opr.inLen.toNat < s.opr.limit.toNat
  · obtain ⟨t, hrun, hfail⟩ := hillegal hbad
    exact ⟨t, hrun, hfail.commandEnd rfl rfl nofun⟩
  · obtain ⟨hpos, hlimit⟩ := not_or.1 hbad
    obtain ⟨t, hrun, -, hmiss, hhit, herr, -⟩ := hlegal (Nat.le_of_not_lt hpos) (Nat.le_of_not_lt hlimit)
    refine ⟨t, hrun, ?_⟩
    rcases hfound : s.mfLookup s.opr.pos.toNat s.opr.winLo.toNat s.opr.limit.toNat with _ | ⟨off, len⟩
    · exact commandEnd_of_done (hmiss hfound).1 rfl rfl herr
    · exact commandEnd_of_done (hhit off len hfound).1 rfl rfl herr

theorem commandEnd_dblock : ∃ t, exec .dblock s = .next t ∧ CommandEnd .dblock t := by
  obtain ⟨t, hrun, ⟨hst, herr⟩ | ⟨hst, herr⟩, -⟩ := dblockIsSafe s hb
  · exact ⟨t, hrun, commandEnd_of_done hst rfl rfl herr⟩
  · exact ⟨t, hrun, commandEnd_of_error hst rfl rfl (ne_of_mem_of_not_mem herr (by decide))⟩

theorem commandEnd_dframe : ∃ t, exec .dframe s = .next t ∧ CommandEnd .dframe t := by
  refine ⟨_, rfl, ?_⟩
  rcases (runCommand_dframe_ends hb).outcome with ⟨hst, herr⟩ | ⟨f, hst, herr, -⟩
  · exact commandEnd_of_done hst rfl rfl herr
  · exact commandEnd_of_error hst rfl rfl (readerErrors_ne_none herr)

variable (hcfg : s.cfg.wf = true)
include hcfg

theorem commandEnd_cblock : ∃ t, exec .cblock s = .next t ∧ CommandEnd .cblock t := by
  rcases Nat.lt_or_ge s.opr.outCap.toNat (s.opr.inLen.toNat + s.opr.inLen.toNat / 255 + 16) with hlt | hle
  · obtain ⟨t, hrun, hfail⟩ := (cblockChecksSpaceFirst s hcfg hb).1 hlt
    exact ⟨t, hrun, hfail.commandEnd rfl rfl nofun⟩
  · obtain ⟨t, hrun, hst, herr, -⟩ := cblockEndsDone s hcfg hb hle
    exact ⟨t, hrun, commandEnd_of_done hst rfl rfl herr⟩

theorem commandEnd_cframe : ∃ t, exec .cframe s = .next t ∧ CommandEnd .cframe t := by
  rcases Nat.lt_or_ge s.opr.outCap.toNat (frameBound (blockMax s.cfg.blockMaxCode) s.opr.inLen.toNat
    (optBck s.opr.options) (optCck s.opr.options) (optCsz s.opr.options)) with hlt | hle
  · exact ⟨_, exec_cframe_of_no_room hb hlt, commandEnd_of_error rfl rfl rfl nofun⟩
  · obtain ⟨t, hrun, hst, herr, -⟩ := cframeEndsDone s hcfg hb hle
    exact ⟨t, hrun, commandEnd_of_done hst rfl rfl herr⟩

end Commands

/-- Settles O59: the ends that the statements on the commands give. -/
theorem everyCommandEnds : Obligations.EveryCommandEnds := by
  intro s i c hinv hb hc
  have hcfg : s.cfg.wf = true := (s.inv_iff.1 hinv).1
  cases i <;> cases hc
  case cbound => exact commandEnd_cbound hb
  case cblock => exact commandEnd_cblock hb hcfg
  case dblock => exact commandEnd_dblock hb
  case cframe => exact commandEnd_cframe hb hcfg
  case dframe => exact commandEnd_dframe hb
  case mfclr => exact commandEnd_mfclr hb
  case mffind => exact commandEnd_mffind hb
  case mfins => exact commandEnd_mfins hb

end Sys2Proof.Machine
end

section
namespace Sys2Proof.Machine

/-! ### The state after reset (10_state.md rule R25; 70_reset_and_hazards.md rule R230) -/

/-- Where the operands, the results, `ERR` and `STATUS` are cleared, every register reads 0. -/
theorem readReg_of_cleared {s : State} (hst : s.status = {}) (herr : s.err = .none) (hopr : s.opr = {})
    (hres : s.res = {}) (r : Nat) : s.readReg r = 0#32 := by
  unfold State.readReg
  rw [hst, herr, hopr, hres]
  split <;> rfl

theorem hostAct_reset (s : State) : hostAct .reset s = .next s.hardReset := rfl

/-- Settles O6: the fields of `State.hardReset` and of `State.reset`, whose registers are all cleared. -/
theorem resetClearsEverything : Obligations.ResetClearsEverything := by
  refine ⟨fun s => ⟨s.hardReset, hostAct_reset s, ?registers, rfl, rfl, fun _ => rfl, fun _ => ⟨rfl, rfl⟩, rfl, rfl, rfl,
    rfl⟩, ?registersAfter, rfl, fun _ => rfl, fun _ => ⟨rfl, rfl⟩, rfl⟩
  case registers | registersAfter => exact readReg_of_cleared rfl rfl rfl rfl

end Sys2Proof.Machine
end

section
namespace Sys2Proof.Machine

/-! ### The atomic and the stepwise run of a command (70_reset_and_hazards.md rules R245, R246) -/

theorem engineStep_host (s : State) : (engineStep s).host = s.host := congrArg Given.host (engineStep_given s)

/-- An engine that is not Busy waits for the host. -/
theorem step_of_not_busy {s : State} (hhost : s.host = []) (hb : s.busy = false) : step s = .next s := by
  rw [step_eq_machineStep, machineStep, hhost]
  exact if_neg (hb ▸ Bool.false_ne_true)

theorem run_succ_of_step {M : Host.Core} {s t : M.State} (k : Nat) (h : M.step s = .next t) :
    M.run (k + 1) s = M.run k t := by
  rw [Host.Core.run, h]

/-- With no host action pending, the machine's steps are the engine's, and after the command's end they change nothing. -/
theorem run_core_eq_runEngine (k : Nat) {s : State} (hhost : s.host = []) :
    Host.Core.run Sys2Proof.core k s = .next (runEngine k s) := by
  induction k generalizing s with
  | zero => rfl
  | succ k ih =>
    cases hb : s.busy with
    | true =>
      rw [runEngine_succ, if_pos hb]
      exact (run_succ_of_step k (step_of_busy hhost hb)).trans (ih ((engineStep_host s).trans hhost))
    | false =>
      have hk := ih hhost
      rw [runEngine_of_not_busy _ hb] at hk ⊢
      exact (run_succ_of_step k (step_of_not_busy hhost hb)).trans hk

theorem exec_of_commandOf {i : Instr} {c : Cmd} (h : commandOf i = some c) (s : State) :
    exec i s = .next (runCommand c s) := by
  cases i <;> cases h <;> rfl

/-- The atomic command is the engine's run from the command's start, as long as its fuel (R245). -/
theorem runCommand_eq_runEngine {s : State} (c : Cmd) (hb : s.busy = false) :
    runCommand c s = runEngine (s.startCmd c).fuel (s.startCmd c) :=
  if_neg (hb ▸ Bool.false_ne_true)

/-- Settles O60: as many steps as the command's fuel reach the state in which the atomic command ends. -/
theorem atomicCommandEqualsItsSteps : Obligations.AtomicCommandEqualsItsSteps := by
  intro s i c hhost hb hc
  refine ⟨(s.startCmd c).fuel, ?_⟩
  rw [exec_of_commandOf hc, runCommand_eq_runEngine c hb]
  exact run_core_eq_runEngine _ hhost

end Sys2Proof.Machine
end
